-- ==== Sys2Proof/Word.lean ====
section
/-! DEFINITION. The word types of the spec (R7) and the plain records that stand on the request port (R76 to R78). -/

namespace Sys2Proof

/-- A byte, bits 7 to 0 (R7). -/
abbrev Byte := BitVec 8

/-- A request word as it stands on the port (R77). -/
abbrev RequestWord := BitVec 16

/-- The direction argument of `setEntryMode` (R76). -/
inductive Dir where
  | left
  | right
  deriving DecidableEq, Repr

/-- The shift argument of `setEntryMode` (R76). -/
inductive Shift where
  | on
  | off
  deriving DecidableEq, Repr

/-- What is attached to a request word (R78): nothing, a list of bytes, or a list of glyphs, each a list of naturals. -/
inductive Attachment where
  | absent
  | bytes (text : List Byte)
  | glyphs (table : List (List Nat))
  deriving DecidableEq, Repr

/-- One request as the host presents it on the port (R77, R78). -/
structure PortItem where
  word : RequestWord
  att  : Attachment
  deriving DecidableEq, Repr

/-- The bus identifier of the device handle: opaque to the block, never part of a frame (R13, D37; log entry 16). -/
structure BusId where
  number : Nat
  deriving DecidableEq, Repr

end Sys2Proof
end

