-- ==== Sys2Proof/Config.lean ====
section
/-! DEFINITION. The parameters of R6: the fixed ones as values, the OPEN ones as constants without a body, which
nothing can evaluate. -/

namespace Sys2Proof

/-- P_ERR_ORDER: which error DLINE reports when both apply (R6, R96). -/
inductive ErrOrder where
  | lineFirst
  | lengthFirst
  deriving DecidableEq, Repr, Inhabited

/-- The transport's answer to an attempt whose payload fits (R23). -/
inductive Draw where
  | ack
  | busUnavailable
  | noAck
  | stall
  deriving DecidableEq, Repr, Inhabited

/-- The two settle waits, by the name R6 gives them. -/
inductive Duration where
  /-- T_SETTLE_US, after every attempt. -/
  | settle
  /-- T_INIT_MS, INIT's tail. -/
  | initTail
  deriving DecidableEq, Repr

/-- SLAVE_ADDRS (R6, R13). -/
abbrev Config.slaveAddrs : List (BitVec 7) := [0x3C, 0x3D, 0x3E, 0x3F]

/-- MAX_PAYLOAD (R6). -/
abbrev Config.maxPayload : Nat := 32

/-- SEL_IW (R6, R62). -/
abbrev Config.selIw : Byte := 0x00

/-- SEL_DW (R6, R62). -/
abbrev Config.selDw : Byte := 0x40

/-- N_GLYPHS (R6). -/
abbrev Config.nGlyphs : Nat := 8

/-- N_ROWS (R6). -/
abbrev Config.nRows : Nat := 8

/-- The number of DDRAM cells, 2 ^ DDRAM_ADDR_BITS (R6, R26). -/
abbrev Config.ddramSize : Nat := 128

/-- The number of CGRAM cells, 2 ^ CGRAM_ADDR_BITS (R6, R26). -/
abbrev Config.cgramSize : Nat := 64

/-- P_ERR_ORDER, OPEN (R6, R96). A free value: log entry 6. -/
opaque Config.errOrder : ErrOrder

/-- CLEAR_FILL, OPEN (R6, R49). A free value: log entry 5. -/
opaque Config.clearFill : Byte

/-- How far T_SETTLE_US stands above its minimum. A free value: log entry 7. -/
opaque Config.settleExtraUs : Nat

/-- The transport's answers beyond those the state lists: the n-th such draw. A free value: log entry 4. -/
opaque Config.transportDraw : Nat → Draw

/-- The settle waits in microseconds: T_SETTLE_US is at least 100, T_INIT_MS is 200 milliseconds (R6, R140). -/
def Config.micros : Duration → Nat
  | .settle => 100 + Config.settleExtraUs
  | .initTail => 200000

end Sys2Proof
end

