-- ==== Sys2Proof/Syntax.lean ====
section
/-! DEFINITION. The instructions: one constructor for each row of spec/opcode_table.json, in the table's order. -/

namespace Sys2Proof

/-- The 22 rows of the opcode table, in its four spaces: frame selectors, instruction bytes of an IW frame, data
bytes of a DW frame, request words. -/
inductive Instr where
  /-- SEL_IW, the instruction-write selector (R62). -/
  | selIw
  /-- SEL_DW, the data-write selector (R62). -/
  | selDw
  /-- Clear (R65). -/
  | clear
  /-- Home (R66). -/
  | home
  /-- EntryModeSet with its bits ID and S (R67). -/
  | entryModeSet (id s : Bool)
  /-- DisplayControl with its bits D, C and B (R68). -/
  | displayControl (d c b : Bool)
  /-- FunctionSet with its bits DL, N and F (R69). -/
  | functionSet (dl n f : Bool)
  /-- SetCGRAM with a 6-bit address (R70). -/
  | setCgram (a : BitVec 6)
  /-- SetDDRAM with a 7-bit address (R71). -/
  | setDdram (a : BitVec 7)
  /-- DataByte, one payload byte of a DW frame (R73). -/
  | dataByte (v : Byte)
  /-- INIT (R84). -/
  | reqInit
  /-- CLRDISP (R86). -/
  | reqClrdisp
  /-- HOME (R87). -/
  | reqHome
  /-- ENTRY dir, shift (R88). -/
  | reqEntry (dir : Dir) (shift : Shift)
  /-- DISPON cursorOn, cursorBlinkOn (R89). -/
  | reqDispon (cursorOn blinkOn : Bool)
  /-- DISPOFF (R90). -/
  | reqDispoff
  /-- SETCG address (R91). -/
  | reqSetcg (a : BitVec 6)
  /-- SETDD address (R92). -/
  | reqSetdd (a : BitVec 7)
  /-- WRDATA value, a natural below 2^12 (R94). -/
  | reqWrdata (value : Nat)
  /-- DLINE lineNumber, a natural below 2^8, with its attached bytes (R95, R98). -/
  | reqDline (line : Nat) (text : List Byte)
  /-- LDGLYPH with its attached table (R101, R102). -/
  | reqLdglyph (table : List (List Nat))
  /-- ILLEGAL, any request word that R79 refuses (R111). -/
  | reqIllegal (w : RequestWord)
  deriving DecidableEq, Repr

end Sys2Proof
end

