-- ==== Sys2Proof/WellFormed.lean ====
section
/-! DEFINITION. Well-formed instructions: the two bounds of the port's fields that the types do not carry (R76). -/

namespace Sys2Proof

/-- The bounds R76 gives: WRDATA's value is below 2^12 and DLINE's line number below 2^8. Every other operand has
exactly its field's width in its type. -/
def wellFormed : Instr → Bool
  | .reqWrdata value => decide (value < 4096)
  | .reqDline line _ => decide (line < 256)
  | .selIw | .selDw | .clear | .home | .entryModeSet _ _ | .displayControl _ _ _ | .functionSet _ _ _
  | .setCgram _ | .setDdram _ | .dataByte _ | .reqInit | .reqClrdisp | .reqHome | .reqEntry _ _ | .reqDispon _ _
  | .reqDispoff | .reqSetcg _ | .reqSetdd _ | .reqLdglyph _ | .reqIllegal _ => true

end Sys2Proof
end

