-- ==== Sys2Proof/Decode.lean ====
section
/-! DEFINITION. The encodings: instruction bytes (R64 to R71, R80), selectors (R62), request words (R76 to R79);
then the encoder of each, and the opcode table's own numbering. -/

namespace Sys2Proof

/-- One bit as a number (R7). -/
def bit (b : Bool) : Byte := if b then 1#8 else 0#8

/-- The symbolic instructions of an IW payload byte (R80), 214 in all. -/
inductive Iw where
  | clear
  | home
  | entry (id s : Bool)
  | dispCtl (d c b : Bool)
  | funcSet (dl n f : Bool)
  | setCg (a : BitVec 6)
  | setDd (a : BitVec 7)
  deriving DecidableEq, Repr

/-- R65. -/
def encClear : Byte := 0x01

/-- R66. -/
def encHome : Byte := 0x02

/-- R67. -/
def encEntry (id s : Bool) : Byte := 0x04#8 ||| (bit id <<< 1) ||| bit s

/-- R68. -/
def encDispCtl (d c b : Bool) : Byte := 0x08#8 ||| (bit d <<< 2) ||| (bit c <<< 1) ||| bit b

/-- R69. -/
def encFuncSet (dl n f : Bool) : Byte := 0x20#8 ||| (bit dl <<< 4) ||| (bit n <<< 3) ||| (bit f <<< 2)

/-- R70. -/
def encSetCg (a : BitVec 6) : Byte := 0x40#8 ||| a.setWidth 8

/-- R71. -/
def encSetDd (a : BitVec 7) : Byte := 0x80#8 ||| a.setWidth 8

/-- `Enc` of R81. -/
def encIw : Iw → Byte
  | .clear => encClear
  | .home => encHome
  | .entry id s => encEntry id s
  | .dispCtl d c b => encDispCtl d c b
  | .funcSet dl n f => encFuncSet dl n f
  | .setCg a => encSetCg a
  | .setDd a => encSetDd a

/-- `Decode` of R80, total on bytes; `none` is `Reserved`. -/
def decodeIw (b : Byte) : Option Iw :=
  if b.getLsbD 7 then some (.setDd (b.extractLsb' 0 7))
  else if b.getLsbD 6 then some (.setCg (b.extractLsb' 0 6))
  else if b.getLsbD 5 then
    if b.extractLsb' 0 2 = 0#2 then some (.funcSet (b.getLsbD 4) (b.getLsbD 3) (b.getLsbD 2)) else none
  else if b.getLsbD 4 then none
  else if b.getLsbD 3 then some (.dispCtl (b.getLsbD 2) (b.getLsbD 1) (b.getLsbD 0))
  else if b.getLsbD 2 then some (.entry (b.getLsbD 1) (b.getLsbD 0))
  else if b = 0x02#8 then some .home
  else if b = 0x01#8 then some .clear
  else none

/-- The opcode table's instruction of a symbolic instruction. -/
def Instr.ofIw : Iw → Instr
  | .clear => .clear
  | .home => .home
  | .entry id s => .entryModeSet id s
  | .dispCtl d c b => .displayControl d c b
  | .funcSet dl n f => .functionSet dl n f
  | .setCg a => .setCgram a
  | .setDd a => .setDdram a

/-- The abstract requests of R76. -/
inductive Request where
  | init
  | clearDisplay
  | returnHome
  | setEntryMode (dir : Dir) (shift : Shift)
  | setDisplayOn (cursorOn blinkOn : Bool)
  | setDisplayOff
  | setCgramAddress (a : BitVec 6)
  | setDdramAddress (a : BitVec 7)
  | writeRamData (value : Nat)
  | displayLine (line : Nat) (text : List Byte)
  | loadGlyphs (table : List (List Nat))
  | illegal (w : RequestWord)
  deriving DecidableEq, Repr

/-- The opcode table's instruction of a request. -/
def Instr.ofRequest : Request → Instr
  | .init => .reqInit
  | .clearDisplay => .reqClrdisp
  | .returnHome => .reqHome
  | .setEntryMode dir shift => .reqEntry dir shift
  | .setDisplayOn cursorOn blinkOn => .reqDispon cursorOn blinkOn
  | .setDisplayOff => .reqDispoff
  | .setCgramAddress a => .reqSetcg a
  | .setDdramAddress a => .reqSetdd a
  | .writeRamData value => .reqWrdata value
  | .displayLine line text => .reqDline line text
  | .loadGlyphs table => .reqLdglyph table
  | .illegal w => .reqIllegal w

/-- The request opcode, bits 15:12 of the word (R77). -/
def opcodeOf (w : RequestWord) : BitVec 4 := w.extractLsb' 12 4

/-- Is bit 1 of ENTRY's word `Left` (R77)? -/
def dirOfBit (l : Bool) : Dir := if l then .left else .right

/-- Is bit 0 of ENTRY's word `On` (R77)? -/
def shiftOfBit (sh : Bool) : Shift := if sh then .on else .off

/-- R77: the requests that carry no attachment, from the word alone; `none` where an opcode is reserved or a
reserved bit of its row is set. DLINE and LDGLYPH are not among them. -/
def decodeBareRequest (w : RequestWord) : Option Request :=
  match (opcodeOf w).toNat with
  | 1 => if w.extractLsb' 0 12 = 0#12 then some .init else none
  | 2 => if w.extractLsb' 0 12 = 0#12 then some .clearDisplay else none
  | 3 => if w.extractLsb' 0 12 = 0#12 then some .returnHome else none
  | 4 => if w.extractLsb' 2 10 = 0#10 then some (.setEntryMode (dirOfBit (w.getLsbD 1)) (shiftOfBit (w.getLsbD 0))) else none
  | 5 => if w.extractLsb' 2 10 = 0#10 then some (.setDisplayOn (w.getLsbD 1) (w.getLsbD 0)) else none
  | 6 => if w.extractLsb' 0 12 = 0#12 then some .setDisplayOff else none
  | 7 => if w.extractLsb' 6 6 = 0#6 then some (.setCgramAddress (w.extractLsb' 0 6)) else none
  | 8 => if w.extractLsb' 7 5 = 0#5 then some (.setDdramAddress (w.extractLsb' 0 7)) else none
  | 9 => some (.writeRamData (w.extractLsb' 0 12).toNat)
  | _ => none

/-- R77, R78: the request with attached bytes, DLINE. -/
def decodeTextRequest (w : RequestWord) (text : List Byte) : Option Request :=
  if opcodeOf w = 0xA#4 ∧ w.extractLsb' 8 4 = 0#4 then some (.displayLine (w.extractLsb' 0 8).toNat text) else none

/-- R77, R78: the request with an attached table, LDGLYPH. -/
def decodeGlyphRequest (w : RequestWord) (table : List (List Nat)) : Option Request :=
  if opcodeOf w = 0xB#4 ∧ w.extractLsb' 0 12 = 0#12 then some (.loadGlyphs table) else none

/-- `DecodeReq` of R79, total. An attachment of the wrong kind is an attachment on the wrong request (R111; log
entry 14). -/
def decodeRequest (item : PortItem) : Request :=
  match item.att with
  | .absent => (decodeBareRequest item.word).getD (.illegal item.word)
  | .bytes text => (decodeTextRequest item.word text).getD (.illegal item.word)
  | .glyphs table => (decodeGlyphRequest item.word table).getD (.illegal item.word)

/-- What the device's side of the bus expects next: the selector of a new frame, a byte for the IR, a byte for the
DR, or a byte of a frame whose selector names neither (R16, R61, R62; log entries 9 and 18). -/
inductive Rx where
  | frameStart
  | ir
  | dr
  | other
  deriving DecidableEq, Repr

/-- Where an encoded instruction stands: a byte on the bus, in its place of a frame, or a request on the port. -/
inductive Encoded where
  | wire (rx : Rx) (b : Byte)
  | port (item : PortItem)
  deriving DecidableEq, Repr

/-- Why a byte decodes to no instruction. -/
inductive Reject where
  /-- A selector other than 0x00 and 0x40 (R62, R48). -/
  | unknownSelector (b : Byte)
  /-- A reserved instruction byte (R75). -/
  | reservedInstructionByte (b : Byte)
  /-- A payload byte of a frame whose selector names no register (R48). -/
  | noRegister (b : Byte)
  deriving DecidableEq, Repr

/-- The decoder's answer: an instruction, or a rejection by name. -/
inductive Decoded where
  | instr (i : Instr)
  | reject (why : Reject)
  deriving DecidableEq, Repr

/-- One byte of a frame in its place: the selector first, then the payload (R61, R62, R64, R73). -/
def decodeWire (rx : Rx) (b : Byte) : Decoded :=
  match rx with
  | .frameStart =>
    if b = Config.selIw then .instr .selIw
    else if b = Config.selDw then .instr .selDw
    else .reject (.unknownSelector b)
  | .ir =>
    match decodeIw b with
    | some x => .instr (.ofIw x)
    | none => .reject (.reservedInstructionByte b)
  | .dr => .instr (.dataByte b)
  | .other => .reject (.noRegister b)

/-- The whole decoder: total, rejecting by name. -/
def decode : Encoded → Decoded
  | .wire rx b => decodeWire rx b
  | .port item => .instr (.ofRequest (decodeRequest item))

/-- ENTRY's bit L (R77). -/
def bitOfDir : Dir → Bool
  | .left => true
  | .right => false

/-- ENTRY's bit SH (R77). -/
def bitOfShift : Shift → Bool
  | .on => true
  | .off => false

/-- Two flag bits in bits 1:0 of a request word (R77: L and SH, CUR and BLK). -/
def flagBits (hi lo : Bool) : RequestWord := ((bit hi <<< 1) ||| bit lo).setWidth 16

/-- An attachment with which the word `w` is refused (R79): none where a list is due, a list elsewhere. -/
def misplacedAttachment (w : RequestWord) : Attachment :=
  if opcodeOf w = 0xA#4 ∨ opcodeOf w = 0xB#4 then .absent else .bytes []

/-- A request packed for the port (R77, R78). -/
def encodeRequest : Request → PortItem
  | .init => ⟨0x1000, .absent⟩
  | .clearDisplay => ⟨0x2000, .absent⟩
  | .returnHome => ⟨0x3000, .absent⟩
  | .setEntryMode dir shift => ⟨0x4000#16 ||| flagBits (bitOfDir dir) (bitOfShift shift), .absent⟩
  | .setDisplayOn cursorOn blinkOn => ⟨0x5000#16 ||| flagBits cursorOn blinkOn, .absent⟩
  | .setDisplayOff => ⟨0x6000, .absent⟩
  | .setCgramAddress a => ⟨0x7000#16 ||| a.setWidth 16, .absent⟩
  | .setDdramAddress a => ⟨0x8000#16 ||| a.setWidth 16, .absent⟩
  | .writeRamData value => ⟨0x9000#16 ||| (BitVec.ofNat 12 value).setWidth 16, .absent⟩
  | .displayLine line text => ⟨0xA000#16 ||| (BitVec.ofNat 8 line).setWidth 16, .bytes text⟩
  | .loadGlyphs table => ⟨0xB000, .glyphs table⟩
  | .illegal w => ⟨w, misplacedAttachment w⟩

/-- The encoder: where each instruction stands and with which bits. -/
def encode : Instr → Encoded
  | .selIw => .wire .frameStart Config.selIw
  | .selDw => .wire .frameStart Config.selDw
  | .clear => .wire .ir encClear
  | .home => .wire .ir encHome
  | .entryModeSet id s => .wire .ir (encEntry id s)
  | .displayControl d c b => .wire .ir (encDispCtl d c b)
  | .functionSet dl n f => .wire .ir (encFuncSet dl n f)
  | .setCgram a => .wire .ir (encSetCg a)
  | .setDdram a => .wire .ir (encSetDd a)
  | .dataByte v => .wire .dr v
  | .reqInit => .port (encodeRequest .init)
  | .reqClrdisp => .port (encodeRequest .clearDisplay)
  | .reqHome => .port (encodeRequest .returnHome)
  | .reqEntry dir shift => .port (encodeRequest (.setEntryMode dir shift))
  | .reqDispon cursorOn blinkOn => .port (encodeRequest (.setDisplayOn cursorOn blinkOn))
  | .reqDispoff => .port (encodeRequest .setDisplayOff)
  | .reqSetcg a => .port (encodeRequest (.setCgramAddress a))
  | .reqSetdd a => .port (encodeRequest (.setDdramAddress a))
  | .reqWrdata value => .port (encodeRequest (.writeRamData value))
  | .reqDline line text => .port (encodeRequest (.displayLine line text))
  | .reqLdglyph table => .port (encodeRequest (.loadGlyphs table))
  | .reqIllegal w => .port (encodeRequest (.illegal w))

/-- The place of a byte of the opcode table that is given without its place: a selector where it is one, else an
instruction byte where it is one, else a data byte: the table's own order of rows (log entry 10). -/
def tablePlace (b : Byte) : Rx :=
  if b = Config.selIw ∨ b = Config.selDw then .frameStart
  else if (decodeIw b).isSome then .ir
  else .dr

/-- The request word of the opcode table with the attachment its row needs, its operand words all zero: an empty
list (log entry 10). -/
def tableItem (w : RequestWord) : PortItem :=
  if opcodeOf w = 0xA#4 then ⟨w, .bytes []⟩
  else if opcodeOf w = 0xB#4 then ⟨w, .glyphs []⟩
  else ⟨w, .absent⟩

/-- A word of the opcode table, of `nbits` bits, laid out where it stands; `none` where the table has no such width. -/
def tableEncoded (nbits w : Nat) : Option Encoded :=
  if nbits = 8 then some (.wire (tablePlace (BitVec.ofNat 8 w)) (BitVec.ofNat 8 w))
  else if nbits = 16 then some (.port (tableItem (BitVec.ofNat 16 w)))
  else none

/-- The instruction the decoder reads from a word of the opcode table. -/
def decodeTableWord (nbits w : Nat) : Option Instr :=
  match tableEncoded nbits w with
  | none => none
  | some e =>
    match decode e with
    | .instr i => some i
    | .reject _ => none

end Sys2Proof
end

