-- ==== Sys2Proof/Machine/State.lean ====
section
/-! DEFINITION. The state of the machine: the block's registers (R13, R17), its port and transport inputs (R18, R20,
R23), the record of a run (R10), and the device as the reference observer (R26). Plain data only. -/

namespace Sys2Proof.Machine

/-- The 8-bit memory of a device RAM, as (address, byte) pairs with addresses strictly rising. An address that is not
listed holds the unknown value `?` (R27, R28). -/
abbrev Memory := List Host.Cell

/-- What an address that is not listed reads as: the unknown value `?` (R28). -/
def Memory.unlisted : Option Byte := none

/-- Are the addresses above `low`, and strictly rising? -/
def Memory.risingFrom : Nat → Memory → Bool
  | _, [] => true
  | low, cell :: rest => decide (low ≤ cell.1) && Memory.risingFrom (cell.1 + 1) rest

/-- The canonical form of a RAM of `size` cells: addresses strictly rising and inside the RAM. A listed byte is never
the unknown value, so no entry equals what an unlisted address reads as. -/
def Memory.wf (size : Nat) (m : Memory) : Bool :=
  Memory.risingFrom 0 m && m.all fun cell => decide (cell.1 < size)

/-- A transaction frame: a selector byte and 0 to 32 payload bytes (R61). -/
structure Frame where
  sel     : Byte
  payload : List Byte
  deriving DecidableEq, Repr

/-- The outcome of an attempt that ended (R32). -/
inductive SendOutcome where
  | ack
  | busUnavailable
  | noAck
  | oversize
  deriving DecidableEq, Repr

/-- The causes of a `TransportError` (R105). -/
inductive Cause where
  | busUnavailable
  | noAck
  | oversize
  deriving DecidableEq, Repr

/-- The result of a request (R105). -/
inductive Result where
  | ok
  | transportError (cause : Cause) (pc : Nat)
  | invalidLine (line : Nat)
  | inputTooLong (len : Nat)
  | invalidGlyphData
  | illegalRequest (w : RequestWord)
  deriving DecidableEq, Repr

/-- The events of a trace (R10, R32). -/
inductive Event where
  | attempt (slave : BitVec 7) (sel : Byte) (payload : List Byte) (out : SendOutcome)
  | settle (t : Duration)
  deriving DecidableEq, Repr

/-- The RAM that was last address-selected (R26). -/
inductive Ram where
  | dd
  | cg
  deriving DecidableEq, Repr

/-- The device's state as the reference observer knows it (R26). `none` is the spec's own unknown value `?` (R27). -/
structure Dev where
  undef : Bool
  ac    : Option Nat
  sel   : Option Ram
  id    : Option Bool
  s     : Option Bool
  d     : Option Bool
  c     : Option Bool
  b     : Option Bool
  dl    : Option Bool
  n     : Option Bool
  f     : Option Bool
  ddram : Memory
  cgram : Memory
  deriving DecidableEq, Repr

/-- The device of which nothing is known: at power-on (R28) and after any undefined behaviour (R59). -/
def Dev.unknown : Dev :=
  { undef := true, ac := none, sel := none, id := none, s := none, d := none, c := none, b := none,
    dl := none, n := none, f := none, ddram := [], cgram := [] }

/-- CFG, set once at construction (R13). -/
structure Cfg where
  busId : BusId
  slave : BitVec 7
  deriving DecidableEq, Repr

/-- What stands on the device's side of the bus: a byte, or the end of the transfer (R61, R63; log entry 9). -/
inductive BusEvent where
  | byte (b : Byte)
  | stop
  deriving DecidableEq, Repr

/-- The whole machine. -/
structure State where
  /-- CFG (R13). -/
  cfg       : Cfg
  /-- BUSY (R17). -/
  busy      : Bool
  /-- REQ (R17). -/
  req       : Option Request
  /-- PLAN (R17). -/
  plan      : List Frame
  /-- TAIL (R17). -/
  tail      : Option Duration
  /-- pc, the index of the next frame of PLAN (R17, R18). -/
  pc        : Nat
  /-- RESULT (R17). -/
  result    : Option Result
  /-- LINEBUF (R17). -/
  lineBuf   : List Byte
  /-- GLYPHBUF (R17). -/
  glyphBuf  : List (List (BitVec 5))
  /-- The bus session of the attempt in progress is held (R31). -/
  session   : Bool
  /-- The transport never answers the attempt in progress (R32 `halt`, R116). -/
  stuck     : Bool
  /-- The trace (R10). -/
  trace     : List Event
  /-- The results of the finished requests, oldest first (R10). -/
  results   : List Result
  /-- The requests that wait on the port, oldest first (R18, R20). -/
  port      : List PortItem
  /-- The transport's answers to come, an argument of the run (R23). -/
  draws     : List Draw
  /-- The model's own: how many answers the free value has given (log entry 4). -/
  drawCount : Nat
  /-- The model's own: bytes on the device's side of the bus (log entry 9). -/
  wire      : List BusEvent
  /-- The device register that the frame on the device's side addresses (R16; log entry 9). -/
  rx        : Rx
  /-- The device (R26). -/
  dev       : Dev
  deriving DecidableEq, Repr

/-- Why the machine stops. -/
inductive Fault where
  /-- The transport never answers the attempt in progress: the run has no further step (R23, R116). Raised by `step`
  alone, in a stuck state. Safe: nothing is claimed of a run beyond it. -/
  | transportStalled
  deriving DecidableEq, Repr

/-- Why the machine has no meaning for what it is asked. -/
inductive Refusal where
  /-- An instruction without a meaning yet: none. Safe. -/
  | notModelled (mnemonic : String)
  /-- CFG.slave is none of the four legal addresses: no block is constructed with it and no request runs under it
  (R14). Raised by `construct` and by `step`. Safe. -/
  | illegalConfiguration
  deriving DecidableEq, Repr

/-- The block after construction with a resolved handle (R24), before a device at power-on (R28). LINEBUF and GLYPHBUF
are unspecified there: log entry 3. The inputs are empty: log entries 4, 9 and 11. -/
def State.constructed (busId : BusId) (slave : BitVec 7) : State :=
  { cfg := { busId := busId, slave := slave }, busy := false, req := none, plan := [], tail := none, pc := 0,
    result := none, lineBuf := [], glyphBuf := List.replicate 8 (List.replicate 8 0#5), session := false,
    stuck := false, trace := [], results := [], port := [], draws := [], drawCount := 0, wire := [],
    rx := .frameStart, dev := Dev.unknown }

/-- The machine right after reset. The handle is the caller's (R24): log entry 2 names the one taken here. -/
def State.reset : State := State.constructed ⟨0⟩ 0x3C

end Sys2Proof.Machine
end

