-- ==== Sys2Proof/Machine/Operands.lean ====
section
/-! DEFINITION. Operand assembly: the forms R72 gives, the line table (R41), the glyph rows (R102, R104), and the
wire order of a frame (R33). -/

namespace Sys2Proof.Machine

/-- `ID` of a direction: `Left` is 1 (R81, R88). -/
def entryId (dir : Dir) : Bool := bitOfDir dir

/-- `S` of a shift argument: `On` is 1 (R81, R88). -/
def entryShift (shift : Shift) : Bool := bitOfShift shift

/-- The byte WRDATA sends: `value mod 256` (R94). -/
def dataOperand (value : Nat) : Byte := BitVec.ofNat 8 (value % 256)

/-- The character-cell address multiplexer: LINE_BASE, a fixed table (R41, R97). -/
def lineBase : Nat → Option Byte
  | 1 => some 0x80
  | 2 => some 0xC0
  | 3 => some 0x94
  | 4 => some 0xD4
  | _ => none

/-- The CGRAM address of a glyph slot, `0x08 * index` (R39, R72). -/
def slotBase (index : Nat) : BitVec 6 := BitVec.ofNat 6 (8 * index)

/-- The byte sent for a glyph row, `row & 0b11111` (R102, R104). -/
def rowOperand (row : BitVec 5) : Byte := row.setWidth 8 &&& 0x1F#8

/-- The rows of a validated table as GLYPHBUF holds them (R102). -/
def packRows (table : List (List Nat)) : List (List (BitVec 5)) :=
  table.map fun glyph => glyph.map fun row => BitVec.ofNat 5 row

/-- An IW frame: selector 0x00 and one instruction byte (R35, R61). -/
def iwFrame (b : Byte) : Frame := ⟨Config.selIw, [b]⟩

/-- A DW frame: selector 0x40 and its data bytes (R35, R61). -/
def dwFrame (payload : List Byte) : Frame := ⟨Config.selDw, payload⟩

/-- The first byte of a transaction on the wire, `{CFG.slave, 0}` (R33). -/
def addressByte (slave : BitVec 7) : Byte := slave ++ 0#1

/-- The bytes of a transaction in wire order: address, selector, payload by index (R33). -/
def wireBytes (slave : BitVec 7) (frame : Frame) : List Byte :=
  addressByte slave :: frame.sel :: frame.payload

/-- The bits of a byte in wire order, most significant first (R33). -/
def wireBits (b : Byte) : List Bool :=
  [7, 6, 5, 4, 3, 2, 1, 0].map fun k => b.getLsbD k

/-- The valid DDRAM addresses of a line mode, `Valid(N)` (R40, R57). -/
def validDd (n : Option Bool) (a : Nat) : Bool :=
  match n with
  | some false => decide (a ≤ 0x4F)
  | some true => decide (a ≤ 0x27) || (decide (0x40 ≤ a) && decide (a ≤ 0x67))
  | none => false

/-- The numeric code of a result (R105). -/
def resultCode : Result → Nat
  | .ok => 0
  | .transportError _ _ => 1
  | .invalidLine _ => 2
  | .inputTooLong _ => 3
  | .invalidGlyphData => 4
  | .illegalRequest _ => 5

/-- The numeric code of a transport error's cause (R105). -/
def causeCode : Cause → Nat
  | .busUnavailable => 1
  | .noAck => 2
  | .oversize => 3

end Sys2Proof.Machine
end

