-- ==== Sys2Proof/Machine/Flags.lean ====
section
/-! DEFINITION. The device's flags (R26): what each instruction byte sets (R49, R51 to R53) and how the address
counter steps by them (R56). The block itself has no flags (R21). -/

namespace Sys2Proof.Machine

/-- Entry mode set: ID and S (R51). -/
def Dev.setEntry (id s : Bool) (dev : Dev) : Dev := { dev with id := some id, s := some s }

/-- Display control: D, C and B (R52). -/
def Dev.setDisplay (d c b : Bool) (dev : Dev) : Dev := { dev with d := some d, c := some c, b := some b }

/-- Function set: DL, N and F (R53). -/
def Dev.setFunction (dl n f : Bool) (dev : Dev) : Dev := { dev with dl := some dl, n := some n, f := some f }

/-- The counter's value after a data byte written with the counter at `a`, by the entry mode (R56). -/
def steppedAc (id : Option Bool) (a : Nat) : Option Nat :=
  match id with
  | some true => some (a + 1)
  | some false => if 0 < a then some (a - 1) else none
  | none => none

end Sys2Proof.Machine
end

