-- ==== Sys2Proof/Machine/Ops.lean ====
section
/-! DEFINITION. The named operations: the device's memories and its effects (R48 to R60), the transport's Send (R32),
the sequencer (R19), and ending a request with an error (R106), which is the machine's only exception. -/

namespace Sys2Proof.Machine

/-- The byte at an address, or the unknown value. -/
def Memory.read (m : Memory) (a : Nat) : Option Byte :=
  match m with
  | [] => Memory.unlisted
  | cell :: rest => if cell.1 = a then some cell.2 else Memory.read rest a

/-- List a byte at an address, in its place. -/
def Memory.insert (m : Memory) (a : Nat) (b : Byte) : Memory :=
  match m with
  | [] => [(a, b)]
  | cell :: rest =>
    if a < cell.1 then (a, b) :: cell :: rest
    else if a = cell.1 then (a, b) :: rest
    else cell :: Memory.insert rest a b

/-- Make a cell unknown. -/
def Memory.forget (m : Memory) (a : Nat) : Memory := m.filter fun cell => decide (cell.1 ≠ a)

/-- Write a byte or the unknown value to a cell; the canonical form is kept. -/
def Memory.write (m : Memory) (a : Nat) (v : Option Byte) : Memory :=
  match v with
  | some b => Memory.insert m a b
  | none => Memory.forget m a

/-- A RAM that holds one byte in all of its `size` cells. -/
def Memory.filled (size : Nat) (b : Byte) : Memory := (List.range size).map fun a => (a, b)

/-- `ObsUndef()`: every field unknown (R59). -/
def obsUndef (_ : Dev) : Dev := Dev.unknown

/-- Clear (R49). -/
def Dev.clear (dev : Dev) : Dev :=
  { dev with ac := some 0, id := some true, sel := some .dd, ddram := Memory.filled Config.ddramSize Config.clearFill }

/-- Return home (R50). -/
def Dev.home (dev : Dev) : Dev := { dev with ac := some 0, sel := some .dd }

/-- Set CGRAM address (R54). -/
def Dev.setCg (a : BitVec 6) (dev : Dev) : Dev := { dev with sel := some .cg, ac := some a.toNat }

/-- Set DDRAM address (R55). -/
def Dev.setDd (a : BitVec 7) (dev : Dev) : Dev := { dev with sel := some .dd, ac := some a.toNat }

/-- What CGRAM keeps of a byte: rows are 5 bits wide, a wider byte leaves the cell unknown (R56, C2). -/
def cgCell (b : Byte) : Option Byte := if b ≤ 0x1F#8 then some b else none

/-- The RAM part of `MemWrite` at counter `a` (R56, R57). -/
def Dev.storeByte (a : Nat) (b : Byte) (dev : Dev) : Dev :=
  match dev.sel with
  | some .cg =>
    if a < Config.cgramSize then { dev with cgram := Memory.write dev.cgram a (cgCell b) } else obsUndef dev
  | some .dd => if validDd dev.n a then { dev with ddram := Memory.write dev.ddram a (some b) } else obsUndef dev
  | none => obsUndef dev

/-- The counter part of `MemWrite`: it follows the entry mode that the RAM part leaves (R56). -/
def Dev.stepCounter (a : Nat) (dev : Dev) : Dev := { dev with ac := steppedAc dev.id a }

/-- `MemWrite(dev.AC, 1, b)` (R56). With an unknown counter the device becomes undefined (R57, D25). -/
def Dev.memWrite (b : Byte) (dev : Dev) : Dev :=
  match dev.ac with
  | some a => Dev.stepCounter a (Dev.storeByte a b dev)
  | none => obsUndef dev

/-- `ObsInstr` (R49 to R55). -/
def obsInstr (x : Iw) (dev : Dev) : Dev :=
  match x with
  | .clear => dev.clear
  | .home => dev.home
  | .entry id s => dev.setEntry id s
  | .dispCtl d c b => dev.setDisplay d c b
  | .funcSet dl n f => dev.setFunction dl n f
  | .setCg a => dev.setCg a
  | .setDd a => dev.setDd a

/-- One instruction byte at the device; a reserved one makes it undefined (R48, R58). -/
def obsInstrByte (dev : Dev) (b : Byte) : Dev :=
  match decodeIw b with
  | some x => obsInstr x dev
  | none => obsUndef dev

/-- One data byte at the device (R48). -/
def obsDataByte (dev : Dev) (b : Byte) : Dev := dev.memWrite b

/-- `ObsApply(sel, payload)` (R48), for an acknowledged frame, applied whole (R36). -/
def obsApply (frame : Frame) (dev : Dev) : Dev :=
  if frame.sel = Config.selIw then frame.payload.foldl obsInstrByte dev
  else if frame.sel = Config.selDw then frame.payload.foldl obsDataByte dev
  else obsUndef dev

/-- `ObsFail()` (R59). -/
def obsFail (dev : Dev) : Dev := obsUndef dev

/-- `draw()`: the transport's next answer, from the run's list (R23) and, past its end, a free value (log entry 4). -/
def nextDraw (s : State) : Draw × State :=
  match s.draws with
  | answer :: rest => (answer, { s with draws := rest })
  | [] => (Config.transportDraw s.drawCount, { s with drawCount := s.drawCount + 1 })

/-- How an attempt ended: acknowledged, failed with a cause, or never. -/
inductive Sent where
  | acked (s : State)
  | failed (cause : Cause) (s : State)
  | stalled (s : State)
  deriving DecidableEq, Repr

/-- The two events every ended attempt leaves (R32). -/
def attemptEvents (slave : BitVec 7) (frame : Frame) (out : SendOutcome) : List Event :=
  [.attempt slave frame.sel frame.payload out, .settle .settle]

/-- The end of an attempt: its events, the settle, the release of the bus session (R31, R32). -/
def endAttempt (frame : Frame) (out : SendOutcome) (s : State) : State :=
  { s with trace := s.trace ++ attemptEvents s.cfg.slave frame out, session := false }

/-- The state after an acknowledged attempt (R32, R36). -/
def attemptAcked (frame : Frame) (s : State) : State :=
  { endAttempt frame .ack s with dev := obsApply frame s.dev }

/-- The state after an attempt that ended unacknowledged (R32, R59). -/
def attemptFailed (frame : Frame) (out : SendOutcome) (s : State) : State :=
  { endAttempt frame out s with dev := obsFail s.dev }

/-- `Send(sel, payload)` (R32), with the bus session of R31 around it. -/
def send (frame : Frame) (s : State) : Sent :=
  let s := { s with session := true }
  if Config.maxPayload < frame.payload.length then .failed .oversize (attemptFailed frame .oversize s)
  else
    match nextDraw s with
    | (.ack, s) => .acked (attemptAcked frame s)
    | (.busUnavailable, s) => .failed .busUnavailable (attemptFailed frame .busUnavailable s)
    | (.noAck, s) => .failed .noAck (attemptFailed frame .noAck s)
    | (.stall, s) => .stalled { s with stuck := true }

/-- The end of a request: its result is recorded and handed to the host, and BUSY falls (R19, R21). -/
def conclude (r : Result) (s : State) : State :=
  { s with result := some r, results := s.results ++ [r], busy := false }

/-- `raise E(info)` (R106): the machine's exception. Nothing but RESULT is saved, nothing is vectored (R113), and
there is no return from it (R114): the port takes the next request. -/
def raise (e : Result) (s : State) : State := conclude e s

/-- `Settle(t)` as an event of the trace (R34). -/
def settleFor (t : Duration) (s : State) : State := { s with trace := s.trace ++ [.settle t] }

/-- TAIL, when the last frame is done (R19). -/
def runTail (s : State) : State :=
  match s.tail with
  | some t => settleFor t s
  | none => s

/-- Only a request `initialize` that ends with `OK` makes the device known again (R60). -/
def recoverDevice (s : State) : State :=
  if s.req = some .init then { s with dev := { s.dev with undef := false } } else s

/-- The end of a request whose frames are all acknowledged (R19, R60). -/
def finish (s : State) : State := recoverDevice (conclude .ok (runTail s))

/-- The loop of R19 over the frames that are left; it ends the request at the first failed attempt. -/
def runFrames : List Frame → State → State
  | [], s => finish s
  | frame :: rest, s =>
    match send frame s with
    | .acked s => runFrames rest { s with pc := s.pc + 1 }
    | .failed cause s => raise (.transportError cause s.pc) s
    | .stalled s => s

/-- Go on with PLAN from pc (R19). -/
def resume (s : State) : State := runFrames (s.plan.drop s.pc) s

/-- `(PLAN, TAIL) <- Plan(req)`, `pc <- 0`, and the loop (R19). -/
def runPlan (plan : List Frame) (tail : Option Duration) (s : State) : State :=
  resume { s with plan := plan, tail := tail, pc := 0 }

/-- Acceptance (R19). While BUSY the port does not accept: the request goes on waiting at the port's head (R20; log
entry 13). -/
def accept (req : Request) (body : State → State) (s : State) : State :=
  if s.busy then { s with port := encodeRequest req :: s.port }
  else body { s with busy := true, req := some req }

/-- A request whose validation always succeeds (R84 to R94). -/
def runRequest (req : Request) (plan : List Frame) (tail : Option Duration) (s : State) : State :=
  accept req (runPlan plan tail) s

/-- Is this configuration legal (R13, R14)? -/
def legalCfg (cfg : Cfg) : Bool := Config.slaveAddrs.contains cfg.slave

/-- Construction of the block (R14, R24): refused with an illegal slave address. -/
def construct (busId : BusId) (slave : BitVec 7) : Host.Outcome State Fault Refusal :=
  if Config.slaveAddrs.contains slave then .next (State.constructed busId slave) else .refused .illegalConfiguration

end Sys2Proof.Machine
end

