-- ==== Sys2Proof/Machine/Device.lean ====
section
/-! DEFINITION. The bytes of a frame as the device takes them, one at a time: the two selectors (R16, R62), the seven
instruction bytes (R49 to R55) and the data byte (R56). The block is not touched by any of them. -/

namespace Sys2Proof.Machine

/-- An effect on the device alone. -/
def onDev (f : Dev → Dev) (s : State) : State := { s with dev := f s.dev }

/-- SEL_IW: the frame's payload goes to the IR (R16, R62). -/
def execSelIw (s : State) : Host.Outcome State Fault Refusal := .next { s with rx := .ir }

/-- SEL_DW: the frame's payload goes to the DR (R16, R62). -/
def execSelDw (s : State) : Host.Outcome State Fault Refusal := .next { s with rx := .dr }

/-- Clear (R49). -/
def execClear (s : State) : Host.Outcome State Fault Refusal := .next (onDev Dev.clear s)

/-- Home (R50). -/
def execHome (s : State) : Host.Outcome State Fault Refusal := .next (onDev Dev.home s)

/-- EntryModeSet (R51). The display shift that S causes moves the visible window only and is outside the observation
(R10, R51; log entry 25). -/
def execEntryModeSet (id sh : Bool) (s : State) : Host.Outcome State Fault Refusal := .next (onDev (Dev.setEntry id sh) s)

/-- DisplayControl (R52). -/
def execDisplayControl (d c b : Bool) (s : State) : Host.Outcome State Fault Refusal := .next (onDev (Dev.setDisplay d c b) s)

/-- FunctionSet (R53). -/
def execFunctionSet (dl n f : Bool) (s : State) : Host.Outcome State Fault Refusal := .next (onDev (Dev.setFunction dl n f) s)

/-- SetCGRAM (R54). -/
def execSetCgram (a : BitVec 6) (s : State) : Host.Outcome State Fault Refusal := .next (onDev (Dev.setCg a) s)

/-- SetDDRAM (R55). -/
def execSetDdram (a : BitVec 7) (s : State) : Host.Outcome State Fault Refusal := .next (onDev (Dev.setDd a) s)

/-- DataByte (R56). -/
def execDataByte (v : Byte) (s : State) : Host.Outcome State Fault Refusal := .next (onDev (Dev.memWrite v) s)

end Sys2Proof.Machine
end

