-- ==== Sys2Proof/Machine/Glyphs.lean ====
section
/-! DEFINITION. The CGRAM glyph loader, LDGLYPH (R101 to R104). -/

namespace Sys2Proof.Machine

/-- LDGLYPH's Validate: 8 glyphs of 8 rows of at most 0x1F (R101). -/
def validGlyphs (table : List (List Nat)) : Bool :=
  decide (table.length = Config.nGlyphs) &&
    table.all fun glyph => decide (glyph.length = Config.nRows) && glyph.all fun row => decide (row ≤ 0x1F)

/-- The frames of one glyph slot: its address, then its rows from top to bottom (R102). -/
def slotFrames (index : Nat) (glyph : List (BitVec 5)) : List Frame :=
  iwFrame (encSetCg (slotBase index)) :: glyph.map fun row => dwFrame [rowOperand row]

/-- The frames of the slots from `index` on (R102). -/
def glyphFrames (index : Nat) (glyphs : List (List (BitVec 5))) : List Frame :=
  match glyphs with
  | [] => []
  | glyph :: rest => slotFrames index glyph ++ glyphFrames (index + 1) rest

/-- LDGLYPH's Validate and Plan: GLYPHBUF is written at acceptance, after validation (R101, R102). -/
def runGlyphs (table : List (List Nat)) (s : State) : State :=
  if validGlyphs table then runPlan (glyphFrames 0 (packRows table)) none { s with glyphBuf := packRows table }
  else raise .invalidGlyphData s

/-- LDGLYPH table (R101, R102). -/
def execLdglyph (table : List (List Nat)) (s : State) : Host.Outcome State Fault Refusal :=
  .next (accept (.loadGlyphs table) (runGlyphs table) s)

end Sys2Proof.Machine
end

