-- ==== Sys2Proof/Machine/IllegalRequests.lean ====
section
/-! DEFINITION. The catch-all row: a request word that the port does not decode (R79, R111). -/

namespace Sys2Proof.Machine

/-- ILLEGAL: the request ends with `IllegalRequest(word)` before any attempt (R111, R112). -/
def execIllegal (w : RequestWord) (s : State) : Host.Outcome State Fault Refusal :=
  .next (accept (.illegal w) (raise (.illegalRequest w)) s)

end Sys2Proof.Machine
end

