-- ==== Sys2Proof/Machine/InstructionWrites.lean ====
section
/-! DEFINITION. The eight requests that emit only IW frames (R84 to R93), each with its plan. -/

namespace Sys2Proof.Machine

/-- INIT's plan: function set, display on, clear, entry mode, in this order (R84). -/
def initPlan : List Frame :=
  [iwFrame (encFuncSet true true false), iwFrame (encDispCtl true false false), iwFrame encClear,
   iwFrame (encEntry true false)]

/-- INIT, with its 200 ms tail (R84, R85). -/
def execInit (s : State) : Host.Outcome State Fault Refusal :=
  .next (runRequest .init initPlan (some .initTail) s)

/-- CLRDISP (R86). -/
def execClrdisp (s : State) : Host.Outcome State Fault Refusal :=
  .next (runRequest .clearDisplay [iwFrame encClear] none s)

/-- HOME (R87). -/
def execReqHome (s : State) : Host.Outcome State Fault Refusal :=
  .next (runRequest .returnHome [iwFrame encHome] none s)

/-- ENTRY dir, shift (R88). -/
def execEntry (dir : Dir) (shift : Shift) (s : State) : Host.Outcome State Fault Refusal :=
  .next (runRequest (.setEntryMode dir shift) [iwFrame (encEntry (entryId dir) (entryShift shift))] none s)

/-- DISPON cursorOn, cursorBlinkOn (R89). -/
def execDispon (cursorOn blinkOn : Bool) (s : State) : Host.Outcome State Fault Refusal :=
  .next (runRequest (.setDisplayOn cursorOn blinkOn) [iwFrame (encDispCtl true cursorOn blinkOn)] none s)

/-- DISPOFF: the cursor and blink bits are 0 (R90). -/
def execDispoff (s : State) : Host.Outcome State Fault Refusal :=
  .next (runRequest .setDisplayOff [iwFrame (encDispCtl false false false)] none s)

/-- SETCG address: no range is checked (R91, R93). -/
def execSetcg (a : BitVec 6) (s : State) : Host.Outcome State Fault Refusal :=
  .next (runRequest (.setCgramAddress a) [iwFrame (encSetCg a)] none s)

/-- SETDD address: no range is checked (R92, R93). -/
def execSetdd (a : BitVec 7) (s : State) : Host.Outcome State Fault Refusal :=
  .next (runRequest (.setDdramAddress a) [iwFrame (encSetDd a)] none s)

end Sys2Proof.Machine
end

