-- ==== Sys2Proof/Machine/RamWrites.lean ====
section
/-! DEFINITION. The two requests that write RAM data: WRDATA (R94) and DLINE through the character-cell address
multiplexer (R95 to R100). -/

namespace Sys2Proof.Machine

/-- WRDATA value: one data byte, masked to 8 bits (R94). -/
def execWrdata (value : Nat) (s : State) : Host.Outcome State Fault Refusal :=
  .next (runRequest (.writeRamData value) [dwFrame [dataOperand value]] none s)

/-- What DLINE reports when its line and its length are both bad (R95, R96). -/
def lineError (order : ErrOrder) (line : Nat) (text : List Byte) : Result :=
  match order with
  | .lineFirst => .invalidLine line
  | .lengthFirst => .inputTooLong text.length

/-- DLINE's plan: the line's address frame and one data frame with all the bytes, an empty one too (R98, R99). -/
def linePlan (base : Byte) (text : List Byte) : List Frame := [iwFrame base, dwFrame text]

/-- DLINE's Validate and Plan (R95, R97, R98): LINEBUF is written at acceptance, after validation. -/
def runLine (line : Nat) (text : List Byte) (s : State) : State :=
  match lineBase line with
  | none =>
    if 32 < text.length then raise (lineError Config.errOrder line text) s else raise (.invalidLine line) s
  | some base =>
    if 32 < text.length then raise (.inputTooLong text.length) s
    else runPlan (linePlan base text) none { s with lineBuf := text }

/-- DLINE lineNumber, bytes (R95 to R99). -/
def execDline (line : Nat) (text : List Byte) (s : State) : Host.Outcome State Fault Refusal :=
  .next (accept (.displayLine line text) (runLine line text) s)

end Sys2Proof.Machine
end

