-- ==== Sys2Proof/Machine/Dispatch.lean ====
section
/-! DEFINITION. The dispatch: one arm for each constructor of Instr. -/

namespace Sys2Proof.Machine

def exec (i : Instr) (s : State) : Host.Outcome State Fault Refusal :=
  match i with
  | .selIw => Sys2Proof.Machine.execSelIw s
  | .selDw => Sys2Proof.Machine.execSelDw s
  | .clear => Sys2Proof.Machine.execClear s
  | .home => Sys2Proof.Machine.execHome s
  | .entryModeSet id sh => Sys2Proof.Machine.execEntryModeSet id sh s
  | .displayControl d c b => Sys2Proof.Machine.execDisplayControl d c b s
  | .functionSet dl n f => Sys2Proof.Machine.execFunctionSet dl n f s
  | .setCgram a => Sys2Proof.Machine.execSetCgram a s
  | .setDdram a => Sys2Proof.Machine.execSetDdram a s
  | .dataByte v => Sys2Proof.Machine.execDataByte v s
  | .reqInit => Sys2Proof.Machine.execInit s
  | .reqClrdisp => Sys2Proof.Machine.execClrdisp s
  | .reqHome => Sys2Proof.Machine.execReqHome s
  | .reqEntry dir shift => Sys2Proof.Machine.execEntry dir shift s
  | .reqDispon cursorOn blinkOn => Sys2Proof.Machine.execDispon cursorOn blinkOn s
  | .reqDispoff => Sys2Proof.Machine.execDispoff s
  | .reqSetcg a => Sys2Proof.Machine.execSetcg a s
  | .reqSetdd a => Sys2Proof.Machine.execSetdd a s
  | .reqWrdata value => Sys2Proof.Machine.execWrdata value s
  | .reqDline line text => Sys2Proof.Machine.execDline line text s
  | .reqLdglyph table => Sys2Proof.Machine.execLdglyph table s
  | .reqIllegal w => Sys2Proof.Machine.execIllegal w s

end Sys2Proof.Machine
end

