-- ==== Sys2Proof/Machine/Fetch.lean ====
section
/-! DEFINITION. What the next step works on: a byte on the device's side of the bus, the request in progress, or the
next request of the port (R18, R20, R43). -/

namespace Sys2Proof.Machine

/-- The work of one step. -/
inductive Work where
  /-- An instruction was fetched; it runs in this state. -/
  | run (i : Instr) (s : State)
  /-- No instruction: the machine goes on to this state. -/
  | advance (s : State)
  /-- The attempt in progress never ends (R116). -/
  | stalled
  deriving DecidableEq, Repr

/-- A byte in a place where it is no instruction: the device becomes undefined (R48, R58). A selector that names no
register sends its frame's payload nowhere (log entry 18). -/
def takeRejected (why : Reject) (s : State) : State :=
  match why with
  | .unknownSelector _ => { s with rx := .other, dev := obsUndef s.dev }
  | .reservedInstructionByte _ => { s with dev := obsUndef s.dev }
  | .noRegister _ => { s with dev := obsUndef s.dev }

/-- The next event on the device's side of the bus (R48, R61, R63). R61 gives a frame at most 32 payload bytes and says
nothing of a longer transfer at the device; the model goes on byte by byte until the transfer ends (log entry 36). -/
def takeWire (ev : BusEvent) (s : State) : Work :=
  match ev with
  | .stop => .advance { s with rx := .frameStart }
  | .byte b =>
    match decodeWire s.rx b with
    | .instr i => .run i s
    | .reject why => .advance (takeRejected why s)

/-- The next request of the port (R18, R20): idle while there is none (R122). -/
def takePort (s : State) : Work :=
  match s.port with
  | [] => .advance s
  | item :: rest => .run (.ofRequest (decodeRequest item)) { s with port := rest }

/-- The block's part of a step: nothing after a stall (R116), the request in progress first (R20), else the port. -/
def blockWork (s : State) : Work :=
  if s.stuck then .stalled
  else if s.busy then .advance (resume s)
  else takePort s

/-- What the next step works on. -/
def nextWork (s : State) : Work :=
  match s.wire with
  | ev :: rest => takeWire ev { s with wire := rest }
  | [] => blockWork s

/-- An encoded instruction placed where the next step fetches it: a byte with its place in a frame, a request at the
head of the port of an idle block with nothing on the bus (log entry 11). -/
def placeEncoded (e : Encoded) (s : State) : State :=
  match e with
  | .wire rx b => { s with wire := .byte b :: s.wire, rx := rx }
  | .port item => { s with wire := [], stuck := false, session := false, busy := false, port := item :: s.port }

end Sys2Proof.Machine
end

