-- ==== Sys2Proof/Machine/Step.lean ====
section
/-! DEFINITION. One step of the machine: nothing runs under an illegal configuration (R14); else the fetched
instruction runs, or the machine goes on, or it is stuck. -/

namespace Sys2Proof.Machine

/-- One step. -/
def step (s : State) : Host.Outcome State Fault Refusal :=
  if legalCfg s.cfg then
    match nextWork s with
    | .run i s => exec i s
    | .advance s => .next s
    | .stalled => .fault .transportStalled
  else .refused .illegalConfiguration

/-- A word of the opcode table placed where the next step fetches it; a width the table does not have places
nothing. -/
def State.withFetchWord (s : State) (nbits w : Nat) : State :=
  match tableEncoded nbits w with
  | some e => placeEncoded e s
  | none => s

end Sys2Proof.Machine
end

