-- ==== Sys2Proof/Machine/Run.lean ====
section
/-! DEFINITION. Runs and their observation (R10), and the host's pseudo-instructions (R83). -/

namespace Sys2Proof.Machine

/-- The observation of a run (R10). -/
structure Observation where
  trace   : List Event
  results : List Result
  dev     : Dev
  deriving DecidableEq, Repr

/-- What a run shows (R10): the whole record that stands in the state. R10 does not say what a run shows when its start
state already carries a record; the model shows that record as well (log entry 35). -/
def observe (s : State) : Observation := ⟨s.trace, s.results, s.dev⟩

/-- The processing, in order, of a list of requests (R10, R18); it goes no further once the transport has stalled
(R116). -/
def serve (items : List PortItem) (s : State) : State :=
  match items with
  | [] => s
  | item :: rest =>
    match exec (.ofRequest (decodeRequest item)) s with
    | .next t => if t.stuck then t else serve rest t
    | .fault _ => s
    | .refused _ => s

/-- A run from a start state, with the transport's draws as its argument (R10, R23). The start state's own trace and
results stand before the run's (log entry 35). -/
def runProgram (items : List PortItem) (draws : List Draw) (s : State) : Observation :=
  observe (serve items { s with draws := draws })

/-- How many requests of a run are finished: the position in its program (R18). -/
def position (s : State) : Nat := s.results.length

/-- The pseudo-instructions (R83). -/
inductive Pseudo where
  | entryLNs
  | entryLS
  | entryRNs
  | entryRS
  | clear
  deriving DecidableEq, Repr

/-- `clear()`: CLRDISP, then HOME only if CLRDISP's result is `OK` (R83, D34). -/
def runClear (s : State) : Host.Outcome State Fault Refusal :=
  match exec .reqClrdisp s with
  | .next t => if t.stuck = false ∧ t.result = some .ok then exec .reqHome t else .next t
  | .fault r => .fault r
  | .refused r => .refused r

/-- A pseudo-instruction as the host carries it out (R83). The result of `CLEAR` is RESULT after it (log entry 29). -/
def runPseudo (p : Pseudo) (s : State) : Host.Outcome State Fault Refusal :=
  match p with
  | .entryLNs => exec (.reqEntry .left .off) s
  | .entryLS => exec (.reqEntry .left .on) s
  | .entryRNs => exec (.reqEntry .right .off) s
  | .entryRS => exec (.reqEntry .right .on) s
  | .clear => runClear s

end Sys2Proof.Machine
end

