-- ==== Sys2Proof/Machine/Assembler.lean ====
section
/-! DEFINITION. The assembler of R82: from one line of text to the request it presents on the port. It is host-side
and no part of the block; the lexical points that R82 leaves open are log entry 30. -/

namespace Sys2Proof.Machine

/-- The tokens of a line. -/
inductive Token where
  | word (chars : List Char)
  | num (n : Nat)
  | str (chars : List Char)
  | comma
  | semi
  | openBrace
  | closeBrace
  | openBracket
  | closeBracket
  deriving DecidableEq, Repr

/-- What a line of a program stands for (R82, R83). -/
inductive AsmLine where
  | blank
  | request (item : PortItem)
  | pseudo (p : Pseudo)
  deriving DecidableEq, Repr

/-- A digit of a numeral, in decimal or in hexadecimal. -/
def digitOf (base : Nat) (c : Char) : Option Nat :=
  let n := c.toNat
  let v := if 48 ≤ n ∧ n ≤ 57 then n - 48 else if 65 ≤ n ∧ n ≤ 70 then n - 55 else if 97 ≤ n ∧ n ≤ 102 then n - 87 else base
  if v < base then some v else none

/-- The value of a list of digits, most significant first. -/
def digitsValue (base : Nat) (acc : Nat) (chars : List Char) : Option Nat :=
  match chars with
  | [] => some acc
  | c :: rest => (digitOf base c).bind fun v => digitsValue base (acc * base + v) rest

/-- A word or, where it begins with a digit, a numeral: `0x` hexadecimal, else decimal (R7). -/
def wordToken (chars : List Char) : Option Token :=
  match chars with
  | '0' :: 'x' :: c :: rest => (digitsValue 16 0 (c :: rest)).map .num
  | c :: rest => if (digitOf 10 c).isSome then (digitsValue 10 0 (c :: rest)).map .num else some (.word (c :: rest))
  | [] => none

/-- The token of a punctuation character. The braces are written by their codes, 123 and 125. -/
def punctuation (c : Char) : Option Token :=
  if c = ',' then some .comma
  else if c = ';' then some .semi
  else if c = '[' then some .openBracket
  else if c = ']' then some .closeBracket
  else if c.toNat = 123 then some .openBrace
  else if c.toNat = 125 then some .closeBrace
  else none

/-- Is this a character between tokens? -/
def isBlank (c : Char) : Bool := c = ' ' || c = '\t'

/-- The tokens of a line, `word` holding the characters of the word in progress in reverse order and `quoted` those
of the text literal in progress. A `;` outside a literal and outside braces starts a comment (R82). -/
def tokens (inBraces : Bool) (word : List Char) (quoted : Option (List Char)) (chars : List Char) : Option (List Token) :=
  let flush := fun (rest : Option (List Token)) =>
    if word = [] then rest else (wordToken word.reverse).bind fun t => rest.map (t :: ·)
  match chars, quoted with
  | [], some _ => none
  | [], none => flush (some [])
  | c :: rest, some text =>
    if c = '"' then (tokens inBraces [] none rest).map (.str text.reverse :: ·)
    else tokens inBraces [] (some (c :: text)) rest
  | c :: rest, none =>
    if c = '"' then flush (tokens inBraces [] (some []) rest)
    else if isBlank c then flush (tokens inBraces [] none rest)
    else if c = ';' ∧ inBraces = false then flush (some [])
    else
      match punctuation c with
      | some t =>
        flush ((tokens (if t = .openBrace then true else if t = .closeBrace then false else inBraces) [] none rest).map (t :: ·))
      | none => tokens inBraces (c :: word) none rest

/-- A `"text"` literal is its characters' codes, and a character above 0x7F is refused (R82, D13). -/
def textBytes (chars : List Char) : Option (List Byte) :=
  if chars.all fun c => decide (c.toNat ≤ 0x7F) then some (chars.map fun c => BitVec.ofNat 8 c.toNat) else none

/-- A glyph row written as a string: exactly 5 binary digits, the leftmost being bit 4 (R82, D15). -/
def rowOfString (chars : List Char) : Option Nat :=
  if chars.length = 5 then digitsValue 2 0 chars else none

/-- A glyph row: a number or such a string (R82). -/
def rowOfToken : Token → Option Nat
  | .num n => some n
  | .str chars => rowOfString chars
  | .word _ | .comma | .semi | .openBrace | .closeBrace | .openBracket | .closeBracket => none

/-- A byte of DLINE's list form; a number outside a byte is refused (R82). -/
def byteOfToken : Token → Option Byte
  | .num n => if n < 256 then some (BitVec.ofNat 8 n) else none
  | .str _ | .word _ | .comma | .semi | .openBrace | .closeBrace | .openBracket | .closeBracket => none

/-- `[b0, b1, ...]` after its opening bracket (R82). R82 gives no form of an empty list; the model takes `[]`, and no
comma before a closing bracket (log entry 30). -/
def byteList (ts : List Token) : Option (List Byte) :=
  match ts with
  | [.closeBracket] => some []
  | [b, .closeBracket] => (byteOfToken b).map fun b => [b]
  | b :: .comma :: rest => (byteOfToken b).bind fun b => (byteList rest).bind fun bs => if bs = [] then none else some (b :: bs)
  | _ => none

/-- The glyphs after LDGLYPH's opening brace, `glyph` holding the rows of the glyph in progress in reverse order (R82).
A glyph without a row has no form here and is refused (log entry 30). -/
def glyphList (glyph : List Nat) (ts : List Token) : Option (List (List Nat)) :=
  match ts with
  | [r, .closeBrace] => (rowOfToken r).map fun r => [(r :: glyph).reverse]
  | r :: .comma :: rest => (rowOfToken r).bind fun r => glyphList (r :: glyph) rest
  | r :: .semi :: rest => (rowOfToken r).bind fun r => (glyphList [] rest).map ((r :: glyph).reverse :: ·)
  | _ => none

/-- LDGLYPH's operand (R82): glyphs, or empty braces for the table with no glyph, a form R82 does not give (log
entry 30). -/
def glyphTable (ts : List Token) : Option (List (List Nat)) :=
  match ts with
  | [.openBrace, .closeBrace] => some []
  | .openBrace :: rest => glyphList [] rest
  | _ => none

/-- ENTRY's direction (R82). -/
def dirOfWord (w : List Char) : Option Dir :=
  if w = "LEFT".toList then some .left else if w = "RIGHT".toList then some .right else none

/-- ENTRY's shift (R82). -/
def shiftOfWord (w : List Char) : Option Shift :=
  if w = "SHIFT".toList then some .on else if w = "NOSHIFT".toList then some .off else none

/-- A flag operand, 0 or 1 (R82). -/
def flagOfNat : Nat → Option Bool
  | 0 => some false
  | 1 => some true
  | _ => none

/-- The bytes of DLINE's second operand (R82). -/
def lineText (ts : List Token) : Option (List Byte) :=
  match ts with
  | [.str chars] => textBytes chars
  | .openBracket :: rest => byteList rest
  | _ => none

/-- The requests with operands (R82); an operand outside its field's width is refused. -/
def operandRequest (w : List Char) (ts : List Token) : Option Request :=
  if w = "ENTRY".toList then
    match ts with
    | [.word d, .comma, .word sh] =>
      (dirOfWord d).bind fun dir => (shiftOfWord sh).map fun shift => .setEntryMode dir shift
    | _ => none
  else if w = "DISPON".toList then
    match ts with
    | [.num c, .comma, .num b] => (flagOfNat c).bind fun c => (flagOfNat b).map fun b => .setDisplayOn c b
    | _ => none
  else if w = "SETCG".toList then
    match ts with
    | [.num a] => if a < 64 then some (.setCgramAddress (BitVec.ofNat 6 a)) else none
    | _ => none
  else if w = "SETDD".toList then
    match ts with
    | [.num a] => if a < 128 then some (.setDdramAddress (BitVec.ofNat 7 a)) else none
    | _ => none
  else if w = "WRDATA".toList then
    match ts with
    | [.num v] => if v < 4096 then some (.writeRamData v) else none
    | _ => none
  else if w = "DLINE".toList then
    match ts with
    | .num n :: .comma :: rest => if n < 256 then (lineText rest).map (.displayLine n) else none
    | _ => none
  else if w = "LDGLYPH".toList then (glyphTable ts).map .loadGlyphs
  else none

/-- The requests without operands (R82). -/
def bareRequest (w : List Char) : Option Request :=
  if w = "INIT".toList then some .init
  else if w = "CLRDISP".toList then some .clearDisplay
  else if w = "HOME".toList then some .returnHome
  else if w = "DISPOFF".toList then some .setDisplayOff
  else none

/-- The pseudo-instructions' names (R83). -/
def pseudoOfWord (w : List Char) : Option Pseudo :=
  if w = "ENTRY_L_NS".toList then some .entryLNs
  else if w = "ENTRY_L_S".toList then some .entryLS
  else if w = "ENTRY_R_NS".toList then some .entryRNs
  else if w = "ENTRY_R_S".toList then some .entryRS
  else if w = "CLEAR".toList then some .clear
  else none

/-- One line of a program (R82, R83); `none` where the assembler refuses it. -/
def assemble (line : List Char) : Option AsmLine :=
  match tokens false [] none line with
  | none => none
  | some [] => some .blank
  | some [.word w] =>
    match bareRequest w, pseudoOfWord w with
    | some req, _ => some (.request (encodeRequest req))
    | none, some p => some (.pseudo p)
    | none, none => none
  | some (.word w :: rest) => (operandRequest w rest).map fun req => .request (encodeRequest req)
  | some _ => none

end Sys2Proof.Machine
end

