-- ==== Sys2Proof/Safety.lean ====
section
/-! DEFINITION. The terms in which claims are stated: the plans of the requests as the spec tabulates them, the states
a request ends in, the invariant of the machine, and what of a state is the block's own. -/

namespace Sys2Proof.Machine

/-- The events of a list of acknowledged frames, each attempt with its settle (R32). -/
def ackTrace (slave : BitVec 7) (frames : List Frame) : List Event :=
  match frames with
  | [] => []
  | frame :: rest => .attempt slave frame.sel frame.payload .ack :: .settle .settle :: ackTrace slave rest

/-- The device after a list of acknowledged frames (R48). -/
def deliver (frames : List Frame) (dev : Dev) : Dev := frames.foldl (fun dev frame => obsApply frame dev) dev

/-- The event of a tail settle (R19, R84). -/
def tailTrace : Option Duration → List Event
  | some t => [.settle t]
  | none => []

/-- The state in which a request ends with `OK` after all frames of its plan were acknowledged (R19): `rest` are the
draws left and `dev` the device's state. -/
def completed (req : Request) (plan : List Frame) (tail : Option Duration) (rest : List Draw) (dev : Dev) (s : State) : State :=
  { s with
    busy := false, req := some req, plan := plan, tail := tail, pc := plan.length
    result := some .ok, results := s.results ++ [.ok], session := false
    trace := s.trace ++ ackTrace s.cfg.slave plan ++ tailTrace tail, draws := rest, dev := dev }

/-- The state in which a request ends because frame `k` of its plan was answered by `out` (R19, R59, R107). -/
def failedAt (req : Request) (plan : List Frame) (tail : Option Duration) (k : Nat) (cause : Cause) (out : SendOutcome)
    (rest : List Draw) (s : State) : State :=
  { s with
    busy := false, req := some req, plan := plan, tail := tail, pc := k
    result := some (.transportError cause k), results := s.results ++ [.transportError cause k], session := false
    trace := s.trace ++ ackTrace s.cfg.slave (plan.take k) ++
      ((plan.drop k).take 1).flatMap fun frame => [.attempt s.cfg.slave frame.sel frame.payload out, .settle .settle]
    draws := rest, dev := Dev.unknown }

/-- The state in which a request is stuck for ever at frame `k` of its plan (R32, R116). -/
def stalledAt (req : Request) (plan : List Frame) (tail : Option Duration) (k : Nat) (rest : List Draw) (s : State) : State :=
  { s with
    busy := true, req := some req, plan := plan, tail := tail, pc := k, session := true, stuck := true
    trace := s.trace ++ ackTrace s.cfg.slave (plan.take k), draws := rest, dev := deliver (plan.take k) s.dev }

/-- The state in which a request is refused before any attempt (R19, R106, R112). -/
def refusedWith (req : Request) (e : Result) (s : State) : State :=
  { s with busy := false, req := some req, result := some e, results := s.results ++ [e] }

/-- A glyph table that LDGLYPH takes: 8 glyphs of 8 rows of 5 bits (R101). -/
def glyphTableOk (table : List (List Nat)) : Prop :=
  table.length = 8 ∧ ∀ glyph ∈ table, glyph.length = 8 ∧ ∀ row ∈ glyph, row ≤ 0x1F

/-- The frames of glyph slot `i` (R102, W4): the address byte 0x40 + 8 i, then the rows. -/
def slotPlan (i : Nat) (glyph : List Nat) : List Frame :=
  ⟨0x00, [BitVec.ofNat 8 (0x40 + 8 * i)]⟩ :: glyph.map fun row => ⟨0x40, [BitVec.ofNat 8 row]⟩

/-- The 72 frames of a glyph table (R102). -/
def glyphPlan (table : List (List Nat)) : List Frame :=
  (List.range 8).flatMap fun i => slotPlan i (table.getD i [])

/-- The plan of a request that passes its validation, in numbers, as the spec and the opcode table write it. -/
def planOf : Request → Option (List Frame × Option Duration)
  | .init => some ([⟨0x00, [0x38]⟩, ⟨0x00, [0x0C]⟩, ⟨0x00, [0x01]⟩, ⟨0x00, [0x06]⟩], some .initTail)
  | .clearDisplay => some ([⟨0x00, [0x01]⟩], none)
  | .returnHome => some ([⟨0x00, [0x02]⟩], none)
  | .setEntryMode .right .off => some ([⟨0x00, [0x04]⟩], none)
  | .setEntryMode .right .on => some ([⟨0x00, [0x05]⟩], none)
  | .setEntryMode .left .off => some ([⟨0x00, [0x06]⟩], none)
  | .setEntryMode .left .on => some ([⟨0x00, [0x07]⟩], none)
  | .setDisplayOn false false => some ([⟨0x00, [0x0C]⟩], none)
  | .setDisplayOn false true => some ([⟨0x00, [0x0D]⟩], none)
  | .setDisplayOn true false => some ([⟨0x00, [0x0E]⟩], none)
  | .setDisplayOn true true => some ([⟨0x00, [0x0F]⟩], none)
  | .setDisplayOff => some ([⟨0x00, [0x08]⟩], none)
  | .setCgramAddress a => some ([⟨0x00, [BitVec.ofNat 8 (0x40 + a.toNat)]⟩], none)
  | .setDdramAddress a => some ([⟨0x00, [BitVec.ofNat 8 (0x80 + a.toNat)]⟩], none)
  | .writeRamData value => some ([⟨0x40, [BitVec.ofNat 8 (value % 256)]⟩], none)
  | .displayLine line text =>
    if text.length ≤ 32 then
      match line with
      | 1 => some ([⟨0x00, [0x80]⟩, ⟨0x40, text⟩], none)
      | 2 => some ([⟨0x00, [0xC0]⟩, ⟨0x40, text⟩], none)
      | 3 => some ([⟨0x00, [0x94]⟩, ⟨0x40, text⟩], none)
      | 4 => some ([⟨0x00, [0xD4]⟩, ⟨0x40, text⟩], none)
      | _ => none
    else none
  | .loadGlyphs table =>
    if table.length = 8 ∧ ∀ glyph ∈ table, glyph.length = 8 ∧ ∀ row ∈ glyph, row ≤ 0x1F then
      some (glyphPlan table, none)
    else none
  | .illegal _ => none

/-- The buffer a request fills at acceptance (R98, R102). -/
def buffered : Request → State → State
  | .displayLine _ text, s => { s with lineBuf := text }
  | .loadGlyphs table, s => { s with glyphBuf := table.map fun glyph => glyph.map fun row => BitVec.ofNat 5 row }
  | _, s => s

/-- The instruction bytes the block can emit (R74). -/
def emittable (b : Byte) : Bool :=
  decide (b.toNat = 0x01 ∨ b.toNat = 0x02 ∨ (0x04 ≤ b.toNat ∧ b.toNat ≤ 0x07) ∨ b.toNat = 0x08 ∨
    (0x0C ≤ b.toNat ∧ b.toNat ≤ 0x0F) ∨ b.toNat = 0x38 ∨ 0x40 ≤ b.toNat)

/-- A frame the block can issue: an IW frame with one emittable byte, or a DW frame of at most 32 bytes (R35, R61,
R62, R74). -/
def legalFrame (frame : Frame) : Bool :=
  (decide (frame.sel = 0x00#8) && decide (frame.payload.length = 1) && frame.payload.all emittable) ||
    (decide (frame.sel = 0x40#8) && decide (frame.payload.length ≤ 32))

/-- An event the block can leave: an attempt at its own slave address with a legal frame that fits, or a settle. -/
def legalEvent (slave : BitVec 7) : Event → Bool
  | .attempt target sel payload out => decide (target = slave) && legalFrame ⟨sel, payload⟩ && decide (out ≠ .oversize)
  | .settle _ => true

/-- Every attempt of a trace is followed at once by its settle, and no such settle stands elsewhere (R32, R129). -/
def spaced : List Event → Bool
  | [] => true
  | .attempt _ _ _ _ :: .settle .settle :: rest => spaced rest
  | .settle .initTail :: rest => spaced rest
  | _ => false

/-- The device's fields hold what the spec gives them: a counter of at most 127, memories in canonical form, CGRAM rows
of 5 bits (R26, R56). -/
def Dev.Sound (dev : Dev) : Prop :=
  (∀ a, dev.ac = some a → a ≤ 127) ∧ Memory.wf 128 dev.ddram = true ∧ Memory.wf 64 dev.cgram = true ∧
    ∀ a b, Memory.read dev.cgram a = some b → b.toNat ≤ 0x1F

/-- Once an INIT has succeeded every field of the device but the counter and the CGRAM cells is known (R60). -/
def Dev.Known (dev : Dev) : Prop :=
  dev.sel ≠ none ∧ dev.id ≠ none ∧ dev.s ≠ none ∧ dev.d ≠ none ∧ dev.c ≠ none ∧ dev.b ≠ none ∧ dev.dl ≠ none ∧
    dev.n ≠ none ∧ dev.f ≠ none ∧ ∀ a, a < 128 → Memory.read dev.ddram a ≠ none

/-- The block's registers hold what R17 gives them. -/
def State.BlockSound (s : State) : Prop :=
  s.plan.length ≤ 72 ∧ s.plan.all legalFrame = true ∧ s.pc ≤ s.plan.length ∧ s.lineBuf.length ≤ 32 ∧
    s.glyphBuf.length = 8 ∧ (∀ glyph ∈ s.glyphBuf, glyph.length = 8) ∧ s.result = s.results.getLast?

/-- Between two steps a request is in progress only if its attempt never ends, and then a session is held at a frame
of its plan (R19, R31, R116). -/
def State.Paused (s : State) : Prop :=
  s.busy = s.stuck ∧ s.session = s.stuck ∧ (s.stuck = true → s.req ≠ none ∧ s.pc < s.plan.length)

/-- The trace holds only what the block can do (R32, R74, R129). -/
def State.TraceSound (s : State) : Prop := s.trace.all (legalEvent s.cfg.slave) = true ∧ spaced s.trace = true

/-- The invariant of the machine. -/
def State.Inv (s : State) : Prop :=
  s.BlockSound ∧ s.Paused ∧ s.TraceSound ∧ s.dev.Sound ∧ (s.dev.undef = false → s.dev.Known)

/-- A state with the device replaced: two states that differ only in the device. -/
def State.withDev (dev : Dev) (s : State) : State := { s with dev := dev }

/-- What of an outcome the block itself shows: everything but the device. -/
def blockPart : Host.Outcome State Fault Refusal → Host.Outcome State Fault Refusal
  | .next s => .next (s.withDev Dev.unknown)
  | .fault r => .fault r
  | .refused r => .refused r

/-- R79's conditions for `Illegal`, in numbers: a reserved opcode, a reserved bit set, an attachment missing or on the
wrong request. -/
def standsIllegal (item : PortItem) : Prop :=
  let op := item.word.toNat / 4096
  let low := item.word.toNat % 4096
  (op = 0 ∨ 12 ≤ op) ∨
    ((op = 1 ∨ op = 2 ∨ op = 3 ∨ op = 6 ∨ op = 11) ∧ low ≠ 0) ∨ ((op = 4 ∨ op = 5) ∧ 4 ≤ low) ∨ (op = 7 ∧ 64 ≤ low) ∨
    (op = 8 ∧ 128 ≤ low) ∨ (op = 10 ∧ 256 ≤ low) ∨ (op ≠ 10 ∧ op ≠ 11 ∧ item.att ≠ .absent) ∨
    (op = 10 ∧ ∀ text, item.att ≠ .bytes text) ∨ (op = 11 ∧ ∀ table, item.att ≠ .glyphs table)

/-- How each request stands on the port, in numbers: its word and its attachment (R77, R78). -/
def standsAs (req : Request) (item : PortItem) : Prop :=
  match req with
  | .init => item = ⟨0x1000, .absent⟩
  | .clearDisplay => item = ⟨0x2000, .absent⟩
  | .returnHome => item = ⟨0x3000, .absent⟩
  | .setEntryMode .right .off => item = ⟨0x4000, .absent⟩
  | .setEntryMode .right .on => item = ⟨0x4001, .absent⟩
  | .setEntryMode .left .off => item = ⟨0x4002, .absent⟩
  | .setEntryMode .left .on => item = ⟨0x4003, .absent⟩
  | .setDisplayOn false false => item = ⟨0x5000, .absent⟩
  | .setDisplayOn false true => item = ⟨0x5001, .absent⟩
  | .setDisplayOn true false => item = ⟨0x5002, .absent⟩
  | .setDisplayOn true true => item = ⟨0x5003, .absent⟩
  | .setDisplayOff => item = ⟨0x6000, .absent⟩
  | .setCgramAddress a => item = ⟨BitVec.ofNat 16 (0x7000 + a.toNat), .absent⟩
  | .setDdramAddress a => item = ⟨BitVec.ofNat 16 (0x8000 + a.toNat), .absent⟩
  | .writeRamData value => value < 4096 ∧ item = ⟨BitVec.ofNat 16 (0x9000 + value), .absent⟩
  | .displayLine line text => line < 256 ∧ item = ⟨BitVec.ofNat 16 (0xA000 + line), .bytes text⟩
  | .loadGlyphs table => item = ⟨0xB000, .glyphs table⟩
  | .illegal w => item.word = w ∧ standsIllegal item

end Sys2Proof.Machine
end

