-- ==== Sys2Proof/Certificates/Slice0/Obligations.lean ====
section
/-! DEFINITION. The statements for the provers. Each docstring names the rules of spec/ it formalises. -/

open Sys2Proof Sys2Proof.Machine

/-! ## Encoding and decoding -/

/-- Words written out from R62, R64, R73 and R77 decode to the instructions they stand for, one or more a family. The
flag bits' positions are the spec's general knowledge (GK1 to GK3; log entry 20). -/
def Obligations.SpecWordsDecode : Prop :=
  decodeWire .frameStart 0x00 = .instr .selIw ∧ decodeWire .frameStart 0x40 = .instr .selDw ∧
    decodeWire .ir 0x38 = .instr (.functionSet true true false) ∧ decodeWire .ir 0x06 = .instr (.entryModeSet true false) ∧
    decodeWire .ir 0xD4 = .instr (.setDdram 0x54) ∧ decodeWire .ir 0x1F = .reject (.reservedInstructionByte 0x1F) ∧
    decodeWire .dr 0x41 = .instr (.dataByte 0x41) ∧ decode (.port ⟨0x4001, .absent⟩) = .instr (.reqEntry .right .on) ∧
    decode (.port ⟨0x91FF, .absent⟩) = .instr (.reqWrdata 0x1FF) ∧
    decode (.port ⟨0xA002, .bytes [0x48]⟩) = .instr (.reqDline 2 [0x48]) ∧
    decode (.port ⟨0xB000, .glyphs [[1]]⟩) = .instr (.reqLdglyph [[1]]) ∧
    decode (.port ⟨0x1001, .absent⟩) = .instr (.reqIllegal 0x1001)

/-- Decoding an encoded well-formed instruction gives it back, with every operand at every value its encoding admits
(R61 to R71, R73, R76 to R79). That a byte is encoded with its place in a frame is the model's choice (log entry 9). -/
def Obligations.DecodeOfEncode : Prop :=
  ∀ i : Instr, wellFormed i = true → decode (encode i) = .instr i

/-- R77, R78, R79: each request stands on the port exactly as the table of R77 says, and everything else is `Illegal`.
That an attachment of the wrong kind counts as misplaced is the model's choice (log entry 14). -/
def Obligations.RequestsStandAsTabulated : Prop :=
  ∀ (item : PortItem) (req : Request), decodeRequest item = req ↔ standsAs req item

/-- R81: the round trip of the 214 symbolic instructions in both directions (the second is the spec's own derivation),
and the request-level flags, whose bit positions are general knowledge (GK1, GK2; log entry 20). -/
def Obligations.InstructionBytesRoundTrip : Prop :=
  (∀ x : Iw, decodeIw (encIw x) = some x) ∧ (∀ (b : Byte) (x : Iw), decodeIw b = some x → encIw x = b) ∧
    ∀ (s : State) (rest : List Draw), s.busy = false → s.draws = .ack :: rest →
      (∀ dir shift, ∃ t, exec (.reqEntry dir shift) s = .next t ∧
        t.plan = [⟨0x00, [encIw (.entry (decide (dir = .left)) (decide (shift = .on)))]⟩]) ∧
      (∀ c b, ∃ t, exec (.reqDispon c b) s = .next t ∧ t.plan = [⟨0x00, [encIw (.dispCtl true c b)]⟩]) ∧
      ∃ t, exec .reqDispoff s = .next t ∧ t.plan = [⟨0x00, [encIw (.dispCtl false false false)]⟩]

/-- R75, R58: the reserved instruction bytes are the 42 listed ones, and at the device each makes it undefined. That a
lone byte on the device's side is one step is the model's choice (log entry 9). -/
def Obligations.ReservedBytesUndefineDevice : Prop :=
  (∀ b : Byte, decodeIw b = none ↔ b.toNat = 0x00 ∨ b.toNat = 0x03 ∨ (0x10 ≤ b.toNat ∧ b.toNat ≤ 0x1F) ∨
    (0x20 ≤ b.toNat ∧ b.toNat ≤ 0x3F ∧ b.toNat % 4 ≠ 0)) ∧
    ∀ (s : State) (b : Byte) (rest : List BusEvent), legalCfg s.cfg = true → s.rx = .ir → s.wire = .byte b :: rest →
      decodeIw b = none → step s = .next { s with wire := rest, dev := Dev.unknown }

/-- R74, which the spec derives from its rules: the instruction bytes the block emits are exactly the listed ones; 0x09
to 0x0B and FunctionSet bytes other than 0x38 are well-formed instructions all the same. The block emits a byte when it attempts the frame, whatever the
attempt's outcome. -/
def Obligations.EmittedInstructionBytes : Prop :=
  (∀ b : Byte, emittable b = true ↔ ∃ (req : Request) (s t : State), s.busy = false ∧
    exec (.ofRequest req) s = .next t ∧
    ∃ new out, t.trace = s.trace ++ new ∧ .attempt s.cfg.slave 0x00 [b] out ∈ new) ∧
    (∀ b : Byte, 0x09 ≤ b.toNat → b.toNat ≤ 0x0B → decodeIw b ≠ none) ∧
    ∀ dl n f, decodeIw (encFuncSet dl n f) ≠ none

/-- R97: every byte of the line table is the SetDDRAM instruction byte of its own low seven bits, and the table has
the four lines and no other. -/
def Obligations.LineTableHoldsSetDdramBytes : Prop :=
  (lineBase 1 = some 0x80 ∧ lineBase 2 = some 0xC0 ∧ lineBase 3 = some 0x94 ∧ lineBase 4 = some 0xD4) ∧
    (∀ n, n < 1 ∨ 4 < n → lineBase n = none) ∧
    ∀ (n : Nat) (b : Byte), lineBase n = some b → encSetDd ((b &&& 0x7F#8).setWidth 7) = b

/-- R33: a transaction on the wire is the address byte, the selector and the payload by index, bits most significant
first; the bit order and the address byte are the spec's general knowledge (GK8; log entry 33). -/
def Obligations.TransactionWireOrder : Prop :=
  (∀ (slave : BitVec 7) (frame : Frame),
    wireBytes slave frame = BitVec.ofNat 8 (2 * slave.toNat) :: frame.sel :: frame.payload) ∧
    ∀ (b : Byte) (k : Nat), k < 8 → (wireBits b)[k]? = some (b.toNat.testBit (7 - k))

/-! ## The step -/

/-- A fetched instruction is run by `exec`: a byte that decodes in its place of a frame, and a request of the port of
an idle block, each taken from where it stood (R18, R43, R48). That the bytes of a frame are steps of their own beside
the requests is the model's choice (log entries 1 and 9). -/
def Obligations.StepRunsTheDecodedInstruction : Prop :=
  (∀ (s : State) (b : Byte) (rest : List BusEvent) (i : Instr), legalCfg s.cfg = true → s.wire = .byte b :: rest →
    decode (.wire s.rx b) = .instr i → step s = exec i { s with wire := rest }) ∧
    ∀ (s : State) (item : PortItem) (rest : List PortItem) (i : Instr), legalCfg s.cfg = true → s.wire = [] →
      s.stuck = false → s.busy = false → s.port = item :: rest → decode (.port item) = .instr i →
      step s = exec i { s with port := rest }

/-- Where no instruction is fetched: the end of a transfer ends the frame, a request in progress goes on and the port
is not touched (R20), and an idle block with an empty port stays as it is (R122). Log entries 9, 12 and 34 say how the
model takes such steps. -/
def Obligations.StepWithoutInstruction : Prop :=
  (∀ (s : State) (rest : List BusEvent), legalCfg s.cfg = true → s.wire = .stop :: rest →
    step s = .next { s with wire := rest, rx := .frameStart }) ∧
    (∀ s : State, legalCfg s.cfg = true → s.wire = [] → s.stuck = false → s.busy = true →
      ∃ t, step s = .next t ∧ t = resume s ∧ t.port = s.port) ∧
    ∀ s : State, legalCfg s.cfg = true → s.wire = [] → s.stuck = false → s.busy = false → s.port = [] → step s = .next s

/-- R14: a configuration whose slave address is none of the four is refused at construction, and no request runs under
it; with each of the four the block is constructed. That in a state with such an address the step refuses whatever it
would take, a byte on the bus and an idle step among it, is the model's choice (log entry 17). -/
def Obligations.IllegalConfigurationRefused : Prop :=
  (∀ (busId : BusId) (slave : BitVec 7), slave.toNat < 0x3C ∨ 0x3F < slave.toNat →
    construct busId slave = .refused .illegalConfiguration) ∧
    (∀ (busId : BusId) (slave : BitVec 7), 0x3C ≤ slave.toNat → slave.toNat ≤ 0x3F →
      construct busId slave = .next (State.constructed busId slave)) ∧
    ∀ s : State, s.cfg.slave.toNat < 0x3C ∨ 0x3F < s.cfg.slave.toNat → step s = .refused .illegalConfiguration

/-- R24, R28: the block after construction, before a device at power-on. -/
def Obligations.ConstructionState : Prop :=
  ∀ (busId : BusId) (slave : BitVec 7),
    let s := State.constructed busId slave
    s.cfg.busId = busId ∧ s.cfg.slave = slave ∧ s.busy = false ∧ s.req = none ∧ s.plan = [] ∧ s.tail = none ∧ s.pc = 0 ∧
      s.result = none ∧ s.trace = [] ∧ s.dev.undef = true ∧ s.dev.ac = none ∧ s.dev.sel = none ∧ s.dev.id = none ∧
      s.dev.s = none ∧ s.dev.d = none ∧ s.dev.c = none ∧ s.dev.b = none ∧ s.dev.dl = none ∧ s.dev.n = none ∧
      s.dev.f = none ∧ (∀ a, Memory.read s.dev.ddram a = none) ∧ ∀ a, Memory.read s.dev.cgram a = none

/-- R140: the minimums of the two settle waits. -/
def Obligations.SettleMinimums : Prop :=
  100 ≤ Config.micros .settle ∧ 200000 ≤ Config.micros .initTail

/-! ## The device's side: selectors, instruction bytes, data bytes -/

/-- R62, R16: the two selectors pick the IR and the DR for the frame's payload, and change nothing else. -/
def Obligations.SelectorsPickRegister : Prop :=
  ∀ s : State, exec .selIw s = .next { s with rx := .ir } ∧ exec .selDw s = .next { s with rx := .dr }

/-- R49: Clear sets the counter to 0, the direction to increment and the RAM select to DDRAM, fills every DDRAM cell
with CLEAR_FILL, and leaves the shift flag, CGRAM and everything else. The RAM select, the shift flag and the fill are
the spec's general knowledge (GK5, D24; log entry 21). -/
def Obligations.ClearEffect : Prop :=
  ∀ s : State, ∃ m : Memory,
    exec .clear s = .next { s with dev := { s.dev with ac := some 0, id := some true, sel := some .dd, ddram := m } } ∧
      (∀ a, a < 128 → Memory.read m a = some Config.clearFill) ∧ ∀ a, 128 ≤ a → Memory.read m a = none

/-- R50: Home sets the counter to 0 and selects DDRAM; every other field is unchanged, DDRAM among them. The counter and
the RAM select are the spec's general knowledge (GK6, D24; log entry 21). -/
def Obligations.HomeEffect : Prop :=
  ∀ s : State, exec .home s = .next { s with dev := { s.dev with ac := some 0, sel := some .dd } }

/-- R51, R52, R53: the three flag instructions set their own flags and nothing else. That the display shift is not
modelled is the spec's (GK12; log entry 25). -/
def Obligations.FlagInstructionEffects : Prop :=
  ∀ s : State,
    (∀ i sh, exec (.entryModeSet i sh) s = .next { s with dev := { s.dev with id := some i, s := some sh } }) ∧
    (∀ d c b, exec (.displayControl d c b) s = .next { s with dev := { s.dev with d := some d, c := some c, b := some b } }) ∧
    ∀ dl n f, exec (.functionSet dl n f) s = .next { s with dev := { s.dev with dl := some dl, n := some n, f := some f } }

/-- R54, R55: the bytes `0x40 | a` and `0x80 | a` set an address: each selects its RAM and loads the counter, and changes
nothing else. -/
def Obligations.AddressSetEffects : Prop :=
  (∀ a : BitVec 6, decodeWire .ir (BitVec.ofNat 8 (0x40 + a.toNat)) = .instr (.setCgram a)) ∧
  (∀ a : BitVec 7, decodeWire .ir (BitVec.ofNat 8 (0x80 + a.toNat)) = .instr (.setDdram a)) ∧
  ∀ s : State,
    (∀ a : BitVec 6, exec (.setCgram a) s = .next { s with dev := { s.dev with sel := some .cg, ac := some a.toNat } }) ∧
    ∀ a : BitVec 7, exec (.setDdram a) s = .next { s with dev := { s.dev with sel := some .dd, ac := some a.toNat } }

/-- R56 for CGRAM: the cell at the counter takes the byte if it fits 5 bits and is unknown if not, every other cell
stays, and the counter steps by the entry mode. The unknown cell and the unknown counter are the spec's decision D25
(log entry 15). -/
def Obligations.DataByteIntoCgram : Prop :=
  ∀ (s : State) (a : Nat) (v : Byte), s.dev.ac = some a → s.dev.sel = some .cg → a ≤ 63 →
    ∃ m : Memory,
      exec (.dataByte v) s = .next { s with dev := { s.dev with
        cgram := m
        ac := if s.dev.id = some true then some (a + 1) else if s.dev.id = some false ∧ 0 < a then some (a - 1) else none } } ∧
      ∀ x, Memory.read m x = if x = a then (if v.toNat ≤ 0x1F then some v else none) else Memory.read s.dev.cgram x

/-- R56 and R57 for DDRAM at a valid address of the line mode: the cell at the counter takes the byte, every other
cell stays, and the counter steps by the entry mode. The unknown counter is the spec's decision D25 (log entry 15). -/
def Obligations.DataByteIntoDdram : Prop :=
  ∀ (s : State) (a : Nat) (v : Byte), s.dev.ac = some a → s.dev.sel = some .dd →
    (s.dev.n = some false ∧ a ≤ 0x4F) ∨ (s.dev.n = some true ∧ (a ≤ 0x27 ∨ (0x40 ≤ a ∧ a ≤ 0x67))) →
    ∃ m : Memory,
      exec (.dataByte v) s = .next { s with dev := { s.dev with
        ddram := m
        ac := if s.dev.id = some true then some (a + 1) else if s.dev.id = some false ∧ 0 < a then some (a - 1) else none } } ∧
      ∀ x, Memory.read m x = if x = a then some v else Memory.read s.dev.ddram x

/-- R57: a data byte with an unknown counter or RAM select, or with the counter outside the selected RAM's valid
addresses, makes the device undefined; for an unknown counter that is the spec's decision D25 (log entry 15). -/
def Obligations.DataByteOutsideUndefines : Prop :=
  ∀ (s : State) (v : Byte),
    s.dev.ac = none ∨ s.dev.sel = none ∨
      (∃ a, s.dev.ac = some a ∧ ((s.dev.sel = some .cg ∧ 63 < a) ∨
        (s.dev.sel = some .dd ∧ (s.dev.n = none ∨ (s.dev.n = some false ∧ 0x4F < a) ∨
          (s.dev.n = some true ∧ ((0x27 < a ∧ a < 0x40) ∨ 0x67 < a)))))) →
    exec (.dataByte v) s = .next { s with dev := Dev.unknown }

/-- R37, which the spec derives from R49 to R55: an instruction byte sent twice leaves the device as sent once does. -/
def Obligations.InstructionBytesIdempotent : Prop :=
  ∀ (x : Iw) (s : State), ∃ t, exec (.ofIw x) s = .next t ∧ exec (.ofIw x) t = .next t

/-- R48, R36: a frame taken byte by byte from the bus leaves the device as the whole frame applied at once does. That
bytes stand on the device's side one by one is the model's choice (log entry 9), and so is what it says of a payload
beyond the 32 bytes of R61 (log entry 36) and of the payload after a selector that names no register (log entry 18). -/
def Obligations.ByteByByteEqualsWholeFrame : Prop :=
  ∀ (s : State) (frame : Frame), legalCfg s.cfg = true → s.rx = .frameStart →
    s.wire = .byte frame.sel :: (frame.payload.map .byte ++ [.stop]) →
    Sys2Proof.core.run (frame.payload.length + 2) s = .next { s with wire := [], dev := obsApply frame s.dev }

/-! ## Requests that end with OK -/

/-- Every request that passes its validation, all its attempts being acknowledged, ends with `OK` in the state of R19:
its whole plan in the trace, each attempt with its settle, then the tail. -/
def Obligations.PlannedRequestCompletes : Prop :=
  ∀ (req : Request) (plan : List Frame) (tail : Option Duration) (s : State) (rest : List Draw),
    planOf req = some (plan, tail) → s.busy = false → s.draws = List.replicate plan.length .ack ++ rest →
    exec (.ofRequest req) s = .next (completed req plan tail rest
      (if req = .init then { deliver plan s.dev with undef := false } else deliver plan s.dev) (buffered req s))

/-- R84, R124: INIT issues its four frames and the 200 ms tail, ends with `OK`, and leaves the device as R124
tabulates, a table the spec derives. The bytes' bit positions are general knowledge (GK1 to GK3, GK5; log entries 20
and 21). -/
def Obligations.InitCompletes : Prop :=
  ∀ (s : State) (rest : List Draw), s.busy = false → s.draws = .ack :: .ack :: .ack :: .ack :: rest →
    ∃ m : Memory,
      exec .reqInit s = .next (completed .init [⟨0x00, [0x38]⟩, ⟨0x00, [0x0C]⟩, ⟨0x00, [0x01]⟩, ⟨0x00, [0x06]⟩]
        (some .initTail) rest
        { undef := false, dl := some true, n := some true, f := some false, d := some true, c := some false,
          b := some false, ac := some 0, sel := some .dd, ddram := m, id := some true, s := some false,
          cgram := s.dev.cgram } s) ∧
      ∀ a, a < 128 → Memory.read m a = some Config.clearFill

/-- R86, R87: CLRDISP and HOME issue their one frame and end with `OK`; the device takes Clear and Home (GK5, GK6; log
entry 21). -/
def Obligations.ClrdispAndHomeComplete : Prop :=
  ∀ (s : State) (rest : List Draw), s.busy = false → s.draws = .ack :: rest →
    (∃ t, exec .clear s = .next t ∧
      exec .reqClrdisp s = .next (completed .clearDisplay [⟨0x00, [0x01]⟩] none rest t.dev s)) ∧
    exec .reqHome s = .next (completed .returnHome [⟨0x00, [0x02]⟩] none rest
      { s.dev with ac := some 0, sel := some .dd } s)

/-- R88, W2: the four ENTRY requests send 0x04 to 0x07, the two documented bits and no others; which bit is which is
general knowledge (GK1; log entry 20). -/
def Obligations.EntryCompletes : Prop :=
  ∀ (s : State) (rest : List Draw), s.busy = false → s.draws = .ack :: rest →
    exec (.reqEntry .right .off) s = .next (completed (.setEntryMode .right .off) [⟨0x00, [0x04]⟩] none rest
      { s.dev with id := some false, s := some false } s) ∧
    exec (.reqEntry .right .on) s = .next (completed (.setEntryMode .right .on) [⟨0x00, [0x05]⟩] none rest
      { s.dev with id := some false, s := some true } s) ∧
    exec (.reqEntry .left .off) s = .next (completed (.setEntryMode .left .off) [⟨0x00, [0x06]⟩] none rest
      { s.dev with id := some true, s := some false } s) ∧
    exec (.reqEntry .left .on) s = .next (completed (.setEntryMode .left .on) [⟨0x00, [0x07]⟩] none rest
      { s.dev with id := some true, s := some true } s)

/-- R89, R90: DISPON sends 0x0C to 0x0F by its two flags, DISPOFF sends 0x08 with the cursor and blink bits 0;
which bit is which is general knowledge (GK2; log entry 20). -/
def Obligations.DisplayRequestsComplete : Prop :=
  ∀ (s : State) (rest : List Draw), s.busy = false → s.draws = .ack :: rest →
    (∀ c b : Bool, exec (.reqDispon c b) s = .next (completed (.setDisplayOn c b)
      [⟨0x00, [BitVec.ofNat 8 (0x0C + 2 * c.toNat + b.toNat)]⟩] none rest
      { s.dev with d := some true, c := some c, b := some b } s)) ∧
    exec .reqDispoff s = .next (completed .setDisplayOff [⟨0x00, [0x08]⟩] none rest
      { s.dev with d := some false, c := some false, b := some false } s)

/-- R91, R92, R93: SETCG and SETDD send their address with the opcode, whatever the address, and no range is checked. -/
def Obligations.AddressRequestsComplete : Prop :=
  ∀ (s : State) (rest : List Draw), s.busy = false → s.draws = .ack :: rest →
    (∀ a : BitVec 6, exec (.reqSetcg a) s = .next (completed (.setCgramAddress a)
      [⟨0x00, [BitVec.ofNat 8 (0x40 + a.toNat)]⟩] none rest { s.dev with sel := some .cg, ac := some a.toNat } s)) ∧
    ∀ a : BitVec 7, exec (.reqSetdd a) s = .next (completed (.setDdramAddress a)
      [⟨0x00, [BitVec.ofNat 8 (0x80 + a.toNat)]⟩] none rest { s.dev with sel := some .dd, ac := some a.toNat } s)

/-- R94: WRDATA sends its value mod 256 as one data byte, which the device takes as a data byte. -/
def Obligations.WrdataCompletes : Prop :=
  ∀ (s : State) (rest : List Draw) (value : Nat), s.busy = false → s.draws = .ack :: rest →
    ∃ t, exec (.dataByte (BitVec.ofNat 8 (value % 256))) s = .next t ∧
      exec (.reqWrdata value) s = .next (completed (.writeRamData value)
        [⟨0x40, [BitVec.ofNat 8 (value % 256)]⟩] none rest t.dev s)

/-- R97, R98, R99: DLINE sends the line's own address byte and then one data frame with all its bytes, an empty one
too, which is the spec's decision D12 (log entry 24); LINEBUF holds the bytes. -/
def Obligations.DlineCompletes : Prop :=
  ∀ (s : State) (rest : List Draw) (text : List Byte), s.busy = false → s.draws = .ack :: .ack :: rest → text.length ≤ 32 →
    ∀ (line : Nat) (base : Byte) (addr : Nat),
      (line, base, addr) ∈ [(1, 0x80#8, 0x00), (2, 0xC0#8, 0x40), (3, 0x94#8, 0x14), (4, 0xD4#8, 0x54)] →
      exec (.reqDline line text) s = .next (completed (.displayLine line text) [⟨0x00, [base]⟩, ⟨0x40, text⟩] none rest
        (text.foldl (fun dev v => dev.memWrite v) { s.dev with sel := some .dd, ac := some addr })
        { s with lineBuf := text })

/-- R98, R137 (a table the spec derives): in two-line mode with increment, the bytes of a DLINE that stay inside the base's range land in order
from the line's base on, every other cell stays, and the counter stands behind the last one. -/
def Obligations.DlineFillsItsCells : Prop :=
  ∀ (s : State) (rest : List Draw) (text : List Byte) (line addr room : Nat), s.busy = false →
    s.draws = .ack :: .ack :: rest → s.dev.n = some true → s.dev.id = some true →
    (line, addr, room) ∈ [(1, 0x00, 32), (2, 0x40, 32), (3, 0x14, 20), (4, 0x54, 20)] → text.length ≤ room →
    ∃ t, exec (.reqDline line text) s = .next t ∧ t.result = some .ok ∧
      t.dev = { s.dev with sel := some .dd, ac := some (addr + text.length), ddram := t.dev.ddram } ∧
      ∀ x, Memory.read t.dev.ddram x =
        if addr ≤ x ∧ x < addr + text.length then text[x - addr]? else Memory.read s.dev.ddram x

/-- R137 (the spec derives it): in two-line mode with increment, a DLINE on line 3 or 4 of more than 20 bytes runs out of the valid range
and leaves the device undefined, with result `OK`. -/
def Obligations.DlineOverrunUndefines : Prop :=
  ∀ (s : State) (rest : List Draw) (text : List Byte) (line : Nat), s.busy = false → s.draws = .ack :: .ack :: rest →
    s.dev.n = some true → s.dev.id = some true → line = 3 ∨ line = 4 → 20 < text.length → text.length ≤ 32 →
    ∃ t, exec (.reqDline line text) s = .next t ∧ t.result = some .ok ∧ t.dev = Dev.unknown

/-- R102: LDGLYPH issues its 72 frames, a slot's address frame at 9 i and its row r at 9 i + 1 + r, and ends with
`OK`; GLYPHBUF holds the rows. -/
def Obligations.LdglyphCompletes : Prop :=
  ∀ (s : State) (rest : List Draw) (table : List (List Nat)), s.busy = false → glyphTableOk table →
    s.draws = List.replicate 72 .ack ++ rest →
    exec (.reqLdglyph table) s = .next (completed (.loadGlyphs table) (glyphPlan table) none rest
      (deliver (glyphPlan table) s.dev)
      { s with glyphBuf := table.map fun glyph => glyph.map fun row => BitVec.ofNat 5 row }) ∧
    (glyphPlan table).length = 72 ∧
    ∀ i, i < 8 → (glyphPlan table)[9 * i]? = some ⟨0x00, [BitVec.ofNat 8 (0x40 + 8 * i)]⟩ ∧
      ∀ r row, r < 8 → (table[i]?.bind fun glyph => glyph[r]?) = some row →
        (glyphPlan table)[9 * i + 1 + r]? = some ⟨0x40, [BitVec.ofNat 8 row]⟩

/-- R102, R103, R135 (the spec derives it): with the device in increment mode, row r of glyph i lands at CGRAM address 8 i + r, nothing else
of the device changes but the RAM select and the counter, which ends at 0x40. -/
def Obligations.LdglyphFillsCgram : Prop :=
  ∀ (s : State) (rest : List Draw) (table : List (List Nat)), s.busy = false → glyphTableOk table →
    s.dev.id = some true → s.draws = List.replicate 72 .ack ++ rest →
    ∃ t, exec (.reqLdglyph table) s = .next t ∧ t.result = some .ok ∧
      t.dev = { s.dev with sel := some .cg, ac := some 0x40, cgram := t.dev.cgram } ∧
      (∀ i r row, i < 8 → r < 8 → (table[i]?.bind fun glyph => glyph[r]?) = some row →
        Memory.read t.dev.cgram (8 * i + r) = some (BitVec.ofNat 8 row)) ∧
      ∀ x, 64 ≤ x → Memory.read t.dev.cgram x = Memory.read s.dev.cgram x

/-- R134 (the spec derives it): with the device in decrement mode an acknowledged LDGLYPH ends with `OK` and an undefined device. -/
def Obligations.LdglyphDecrementUndefines : Prop :=
  ∀ (s : State) (rest : List Draw) (table : List (List Nat)), s.busy = false → glyphTableOk table →
    s.dev.id = some false → s.draws = List.replicate 72 .ack ++ rest →
    ∃ t, exec (.reqLdglyph table) s = .next t ∧ t.result = some .ok ∧ t.dev = Dev.unknown

/-- R83: CLEAR sends CLRDISP's frame, and HOME's only if CLRDISP ended with `OK`; RESULT after it is the first result
that is not `OK`, else `OK`; the four ENTRY pseudo-instructions are the four ENTRY requests. CLEAR's conditional second
step is the spec's decision D34. That the record of results keeps one result for each of the two requests, and that
CLEAR's own is RESULT after it, is log entry 29; how a stall stands is log entry 8. -/
def Obligations.PseudoInstructionsExpand : Prop :=
  (∀ (s : State) (rest : List Draw), s.busy = false → s.stuck = false → s.draws = .ack :: .ack :: rest →
    ∃ u v t, exec .clear s = .next u ∧ exec .home u = .next v ∧ runPseudo .clear s = .next t ∧ t.dev = v.dev ∧
      t.result = some .ok ∧ t.results = s.results ++ [.ok, .ok] ∧ t.draws = rest ∧
      t.trace = s.trace ++ ackTrace s.cfg.slave [⟨0x00, [0x01]⟩, ⟨0x00, [0x02]⟩]) ∧
    (∀ (s : State) (rest : List Draw) (answer : Draw) (cause : Cause) (out : SendOutcome), s.busy = false →
      s.stuck = false →
      (answer, cause, out) ∈ [(Draw.busUnavailable, Cause.busUnavailable, SendOutcome.busUnavailable),
        (Draw.noAck, Cause.noAck, SendOutcome.noAck)] →
      (s.draws = answer :: rest →
        runPseudo .clear s = .next (failedAt .clearDisplay [⟨0x00, [0x01]⟩] none 0 cause out rest s)) ∧
      (s.draws = .ack :: answer :: rest →
        runPseudo .clear s = .next (failedAt .returnHome [⟨0x00, [0x02]⟩] none 0 cause out rest
          (completed .clearDisplay [⟨0x00, [0x01]⟩] none (answer :: rest) s.dev s)))) ∧
    (∀ (s : State) (rest : List Draw), s.busy = false → s.stuck = false →
      (s.draws = .stall :: rest →
        runPseudo .clear s = .next (stalledAt .clearDisplay [⟨0x00, [0x01]⟩] none 0 rest s)) ∧
      (s.draws = .ack :: .stall :: rest →
        ∃ u, exec .clear s = .next u ∧
          runPseudo .clear s = .next (stalledAt .returnHome [⟨0x00, [0x02]⟩] none 0 rest
            (completed .clearDisplay [⟨0x00, [0x01]⟩] none (.stall :: rest) u.dev s)))) ∧
    ∀ s : State, runPseudo .entryLNs s = exec (.reqEntry .left .off) s ∧ runPseudo .entryLS s = exec (.reqEntry .left .on) s ∧
      runPseudo .entryRNs s = exec (.reqEntry .right .off) s ∧ runPseudo .entryRS s = exec (.reqEntry .right .on) s

/-! ## Errors -/

/-- R108, R109, R95: a DLINE with a bad line or a text over 32 bytes is refused before any attempt, with the error its
checks give; where both apply it is one of the two by P_ERR_ORDER (R95, R96, D11), which the model holds as a free value
(log entry 6). -/
def Obligations.DlineRefusedBeforeAnyAttempt : Prop :=
  ∀ (s : State) (line : Nat) (text : List Byte), s.busy = false →
    (line < 1 ∨ 4 < line → text.length ≤ 32 →
      exec (.reqDline line text) s = .next (refusedWith (.displayLine line text) (.invalidLine line) s)) ∧
    (1 ≤ line → line ≤ 4 → 32 < text.length →
      exec (.reqDline line text) s = .next (refusedWith (.displayLine line text) (.inputTooLong text.length) s)) ∧
    (line < 1 ∨ 4 < line → 32 < text.length →
      exec (.reqDline line text) s = .next (refusedWith (.displayLine line text)
        (match Config.errOrder with
          | .lineFirst => .invalidLine line
          | .lengthFirst => .inputTooLong text.length) s))

/-- R110, R101: a table of other than 8 glyphs of 8 rows of 5 bits is refused before any attempt; that the whole table
is checked first is the spec's choice D14, and that GLYPHBUF is left as it was is the model's reading (log entry 23). -/
def Obligations.MalformedGlyphTableRefused : Prop :=
  ∀ (s : State) (table : List (List Nat)), s.busy = false → ¬ glyphTableOk table →
    exec (.reqLdglyph table) s = .next (refusedWith (.loadGlyphs table) .invalidGlyphData s)

/-- R111: an illegal request ends with `IllegalRequest(word)` before any attempt. -/
def Obligations.IllegalRequestRefused : Prop :=
  ∀ (s : State) (w : RequestWord), s.busy = false →
    exec (.reqIllegal w) s = .next (refusedWith (.illegal w) (.illegalRequest w) s)

/-- R107, R19, R59: at the first attempt that is not acknowledged the request ends with `TransportError`, its cause and
the index of the frame; the frames before it stay in the trace, those after it and the tail are dropped, and the device
is undefined. The abort, the settle of the failed attempt and the undefined device are the spec's decisions D17 to D19
(log entry 22). -/
def Obligations.FailedAttemptEndsRequest : Prop :=
  ∀ (req : Request) (plan : List Frame) (tail : Option Duration) (k : Nat) (answer : Draw) (cause : Cause)
    (out : SendOutcome) (s : State) (rest : List Draw),
    planOf req = some (plan, tail) → s.busy = false → k < plan.length →
    (answer, cause, out) ∈ [(Draw.busUnavailable, Cause.busUnavailable, SendOutcome.busUnavailable),
      (Draw.noAck, Cause.noAck, SendOutcome.noAck)] →
    s.draws = List.replicate k .ack ++ answer :: rest →
    exec (.ofRequest req) s = .next (failedAt req plan tail k cause out rest (buffered req s))

/-- R32, R116: a transport that never answers leaves the request where it is, without an event, a result or a change
of the device by that attempt, and the machine has no further step. That the stuck request is a next state and the step
after it a fault is the model's choice (log entry 8). -/
def Obligations.StalledTransportSticks : Prop :=
  ∀ (req : Request) (plan : List Frame) (tail : Option Duration) (k : Nat) (s : State) (rest : List Draw),
    planOf req = some (plan, tail) → s.busy = false → k < plan.length →
    s.draws = List.replicate k .ack ++ .stall :: rest →
    ∃ t, exec (.ofRequest req) s = .next t ∧ t = stalledAt req plan tail k rest (buffered req s) ∧
      (legalCfg s.cfg = true → s.wire = [] → step t = .fault .transportStalled)

/-- R32: a payload over 32 bytes never reaches the bus: no draw is taken, the attempt and its settle are in the trace
with outcome `Oversize`, and the device is undefined (D18, D19; log entry 22). -/
def Obligations.OversizedFrameFails : Prop :=
  ∀ (frame : Frame) (s : State), 32 < frame.payload.length →
    send frame s = .failed .oversize { s with
      session := false, dev := Dev.unknown
      trace := s.trace ++ [.attempt s.cfg.slave frame.sel frame.payload .oversize, .settle .settle] }

/-- R20: a request offered to a busy block waits: nothing of the block changes and the same request stands on the port
again. How the model lets it wait is log entry 13. -/
def Obligations.BusyBlockKeepsRequestWaiting : Prop :=
  ∀ (req : Request) (s : State), s.busy = true → wellFormed (.ofRequest req) = true →
    ∃ item, exec (.ofRequest req) s = .next { s with port := item :: s.port } ∧ decodeRequest item = req

/-! ## The whole machine -/

/-- Every request that an idle block takes ends with exactly one result, or never ends (R105, R116). -/
def Obligations.OneResultPerRequest : Prop :=
  ∀ (req : Request) (s : State), s.busy = false → s.stuck = false →
    ∃ t, exec (.ofRequest req) s = .next t ∧
      ((t.stuck = true ∧ t.busy = true ∧ t.results = s.results ∧ t.result = s.result) ∨
        (t.stuck = false ∧ t.busy = false ∧ ∃ r, t.results = s.results ++ [r] ∧ t.result = some r))

/-- What a request of an idle block leaves unchanged: the configuration, the waiting requests, what stands on the
device's side of the bus, and the buffers but the one its own request fills (R13, R17, R98, R102). That the block's own
frames leave the bytes and the open frame on the device's side as they stand is the model's choice (log entries 9 and
19). -/
def Obligations.RequestFrame : Prop :=
  ∀ (req : Request) (s : State), s.busy = false →
    ∃ t, exec (.ofRequest req) s = .next t ∧ t.cfg = s.cfg ∧ t.req = some req ∧ t.port = s.port ∧ t.wire = s.wire ∧
      t.rx = s.rx ∧ ((∀ line text, req ≠ .displayLine line text) → t.lineBuf = s.lineBuf) ∧
      ((∀ table, req ≠ .loadGlyphs table) → t.glyphBuf = s.glyphBuf)

/-- The trace and the results only grow, and CFG never changes (R10, R13). -/
def Obligations.StepOnlyExtendsRecord : Prop :=
  ∀ s t : State, step s = .next t →
    t.cfg = s.cfg ∧ (∃ new, t.trace = s.trace ++ new) ∧ ∃ more, t.results = s.results ++ more ∧ more.length ≤ 1

/-- The invariant of the machine, kept by every step: the bounds of R17, only frames of R61 and R74 at the own slave
address, a settle after every attempt (R129), memories in canonical form, 5-bit glyph rows, and a known device once
UNDEF is 0 (R60). -/
def Obligations.StepKeepsSoundness : Prop :=
  ∀ s t : State, s.Inv → step s = .next t → t.Inv

/-- The state after construction, and so reset, meets the invariant. -/
def Obligations.ConstructionIsSound : Prop :=
  ∀ (busId : BusId) (slave : BitVec 7), (State.constructed busId slave).Inv

/-- R60: a device that was undefined becomes known in a step only if that step ends an INIT with `OK`. -/
def Obligations.OnlyInitRecoversDevice : Prop :=
  ∀ s t : State, step s = .next t → s.dev.undef = true → t.dev.undef = false →
    t.req = some .init ∧ t.result = some .ok ∧ t.results = s.results ++ [.ok] ∧ t.busy = false

/-- R22, R25: the block never observes the device: two states that differ only in the device take the same step, but
for the device. -/
def Obligations.BlockNeverObservesDevice : Prop :=
  ∀ (s : State) (dev : Dev), blockPart (step (s.withDev dev)) = blockPart (step s)

/-- R21: a request's result and trace do not depend on an earlier result. -/
def Obligations.ResultsIndependent : Prop :=
  ∀ (req : Request) (s : State) (r : Option Result) (rs : List Result), s.busy = false → s.stuck = false →
    ∃ t u, exec (.ofRequest req) s = .next t ∧ exec (.ofRequest req) { s with result := r, results := rs } = .next u ∧
      t.trace = u.trace ∧ t.dev = u.dev ∧ t.stuck = u.stuck ∧ t.draws = u.draws ∧
      (t.stuck = false → t.result = u.result)

/-- R10, R18: as many steps as there are requests on the port of an idle block process them in order, one a step, as
long as no transport stalls. That one request is one step is log entry 1. -/
def Obligations.StepsServeRequestsInOrder : Prop :=
  ∀ (items : List PortItem) (s : State), legalCfg s.cfg = true → s.wire = [] → s.busy = false → s.stuck = false →
    s.port = items → (serve items { s with port := [] }).stuck = false →
    Sys2Proof.core.run items.length s = .next (serve items { s with port := [] })

/-- R82: lines of the spec's own programs assemble to the requests beside them, and what R82 refuses is refused. -/
def Obligations.AssemblerExamples : Prop :=
  assemble "DLINE 2, \"HELLO\"".toList = some (.request ⟨0xA002, .bytes [0x48, 0x45, 0x4C, 0x4C, 0x4F]⟩) ∧
    assemble "ENTRY RIGHT, NOSHIFT  ; 0x4000".toList = some (.request ⟨0x4000, .absent⟩) ∧
    assemble "WRDATA 0x141".toList = some (.request ⟨0x9141, .absent⟩) ∧
    assemble "CLEAR".toList = some (.pseudo .clear) ∧ assemble "SETCG 64".toList = none ∧
    rowOfString "10001".toList = some 0x11 ∧ rowOfString "1001".toList = none ∧ textBytes [Char.ofNat 0x80] = none
end

