-- ==== Sys2Proof/Laws/Memory.lean ====
section
/-! SUPPORT. The device's memories: a read after a write, and every operation keeps the canonical form. -/

namespace Sys2Proof.Machine

@[simp] theorem Memory.read_nil (a : Nat) : Memory.read [] a = none := rfl

theorem Memory.read_cons (cell : Host.Cell) (rest : Memory) (a : Nat) :
    Memory.read (cell :: rest) a = if cell.1 = a then some cell.2 else Memory.read rest a := rfl

/-- A listed byte is read back, and every other cell is as before. -/
theorem Memory.read_insert (m : Memory) (a x : Nat) (b : Byte) :
    Memory.read (Memory.insert m a b) x = if x = a then some b else Memory.read m x := by
  induction m with
  | nil => simp [Memory.insert, Memory.read_cons, eq_comm]
  | cons cell rest ih =>
    by_cases h1 : a < cell.1
    · simp only [Memory.insert, h1, if_true, Memory.read_cons, eq_comm]
    · by_cases h2 : a = cell.1
      · subst h2
        simp only [Memory.insert, h1, if_false, if_true, Memory.read_cons]
        by_cases h3 : cell.1 = x
        · simp [h3]
        · simp [h3, Ne.symm h3]
      · simp only [Memory.insert, h1, h2, if_false, Memory.read_cons, ih]
        by_cases h3 : cell.1 = x
        · subst h3; simp [Ne.symm h2]
        · simp [h3]

/-- A forgotten cell is unknown, and every other cell is as before. -/
theorem Memory.read_forget (m : Memory) (a x : Nat) :
    Memory.read (Memory.forget m a) x = if x = a then none else Memory.read m x := by
  induction m with
  | nil => simp [Memory.forget]
  | cons cell rest ih =>
    unfold Memory.forget at ih ⊢
    by_cases h : cell.1 = a
    · subst h
      rw [List.filter_cons_of_neg (by simp), ih, Memory.read_cons]
      by_cases h3 : x = cell.1
      · simp [h3]
      · simp [h3, Ne.symm h3]
    · rw [List.filter_cons_of_pos (by simpa using h), Memory.read_cons, Memory.read_cons, ih]
      by_cases h3 : cell.1 = x
      · subst h3; simp [h]
      · simp [h3]

/-- What a write leaves in every cell. -/
theorem Memory.read_write (m : Memory) (a x : Nat) (v : Option Byte) :
    Memory.read (Memory.write m a v) x = if x = a then v else Memory.read m x := by
  cases v with
  | none => exact Memory.read_forget m a x
  | some b => exact Memory.read_insert m a x b

theorem Memory.read_map_fill (l : List Nat) (b : Byte) (a : Nat) :
    Memory.read (l.map fun k => (k, b)) a = if a ∈ l then some b else none := by
  induction l with
  | nil => rfl
  | cons k rest ih =>
    rw [List.map_cons, Memory.read_cons, ih]
    by_cases h : k = a
    · simp [h]
    · simp [h, Ne.symm h]

/-- A filled memory holds the byte in each of its cells. -/
theorem Memory.read_filled (size : Nat) (b : Byte) (a : Nat) :
    Memory.read (Memory.filled size b) a = if a < size then some b else none := by
  simp [Memory.filled, Memory.read_map_fill]

theorem Memory.risingFrom_mono {low low' : Nat} {m : Memory} (h : low' ≤ low) (hm : Memory.risingFrom low m = true) :
    Memory.risingFrom low' m = true := by
  cases m with
  | nil => rfl
  | cons cell rest =>
    simp only [Memory.risingFrom, Bool.and_eq_true, decide_eq_true_eq] at hm ⊢
    exact ⟨by omega, hm.2⟩

theorem Memory.risingFrom_insert {low a : Nat} {b : Byte} {m : Memory} (hm : Memory.risingFrom low m = true) (h : low ≤ a) :
    Memory.risingFrom low (Memory.insert m a b) = true := by
  induction m generalizing low with
  | nil => simp [Memory.insert, Memory.risingFrom, h]
  | cons cell rest ih =>
    simp only [Memory.risingFrom, Bool.and_eq_true, decide_eq_true_eq] at hm
    unfold Memory.insert
    split
    · next h1 => simp only [Memory.risingFrom, Bool.and_eq_true, decide_eq_true_eq]; exact ⟨h, by omega, hm.2⟩
    · split
      · next h2 =>
        simp only [Memory.risingFrom, Bool.and_eq_true, decide_eq_true_eq]
        exact ⟨h, h2 ▸ hm.2⟩
      · simp only [Memory.risingFrom, Bool.and_eq_true, decide_eq_true_eq]
        exact ⟨hm.1, ih hm.2 (by omega)⟩

theorem Memory.risingFrom_filter {low : Nat} {m : Memory} (p : Host.Cell → Bool) (hm : Memory.risingFrom low m = true) :
    Memory.risingFrom low (m.filter p) = true := by
  induction m generalizing low with
  | nil => rfl
  | cons cell rest ih =>
    simp only [Memory.risingFrom, Bool.and_eq_true, decide_eq_true_eq] at hm
    rw [List.filter_cons]
    split
    · simp only [Memory.risingFrom, Bool.and_eq_true, decide_eq_true_eq]; exact ⟨hm.1, ih hm.2⟩
    · exact Memory.risingFrom_mono (by omega) (ih hm.2)

theorem Memory.mem_insert {m : Memory} {a : Nat} {b : Byte} {cell : Host.Cell} (h : cell ∈ Memory.insert m a b) :
    cell = (a, b) ∨ cell ∈ m := by
  induction m with
  | nil => simpa [Memory.insert] using h
  | cons c rest ih =>
    unfold Memory.insert at h
    split at h
    · simpa using h
    · split at h
      · rcases List.mem_cons.1 h with h | h
        · exact .inl h
        · exact .inr (List.mem_cons_of_mem _ h)
      · rcases List.mem_cons.1 h with h | h
        · exact .inr (h ▸ List.mem_cons_self)
        · exact (ih h).imp_right (List.mem_cons_of_mem _)

/-- The entries after a write are old ones or the one written. -/
theorem Memory.mem_write {m : Memory} {a : Nat} {v : Option Byte} {cell : Host.Cell} (h : cell ∈ Memory.write m a v) :
    (∃ b, v = some b ∧ cell = (a, b)) ∨ cell ∈ m := by
  cases v with
  | none => exact .inr (List.mem_filter.1 h).1
  | some b => exact (Memory.mem_insert h).imp_left fun h => ⟨b, rfl, h⟩

/-- A write inside the RAM keeps the canonical form. -/
theorem Memory.wf_write {size a : Nat} {m : Memory} (v : Option Byte) (hm : Memory.wf size m = true) (h : a < size) :
    Memory.wf size (Memory.write m a v) = true := by
  simp only [Memory.wf, Bool.and_eq_true, List.all_eq_true, decide_eq_true_eq] at hm ⊢
  refine ⟨?_, fun cell hc => ?_⟩
  · cases v with
    | none => exact Memory.risingFrom_filter _ hm.1
    | some b => exact Memory.risingFrom_insert hm.1 (Nat.zero_le _)
  · rcases Memory.mem_write hc with ⟨b, _, rfl⟩ | hc
    · exact h
    · exact hm.2 cell hc

theorem Memory.risingFrom_range' (b : Byte) (n low : Nat) :
    Memory.risingFrom low ((List.range' low n).map fun k => (k, b)) = true := by
  induction n generalizing low with
  | zero => rfl
  | succ n ih => simp [List.range'_succ, Memory.risingFrom, ih]

/-- A filled memory has the canonical form. -/
theorem Memory.wf_filled (size : Nat) (b : Byte) : Memory.wf size (Memory.filled size b) = true := by
  simp only [Memory.wf, Memory.filled, Bool.and_eq_true]
  refine ⟨?_, by simp [List.all_eq_true]⟩
  rw [List.range_eq_range']
  exact Memory.risingFrom_range' b size 0

/-- The memory of which nothing is known has the canonical form. -/
theorem Memory.wf_nil (size : Nat) : Memory.wf size [] = true := rfl

/-- Both memories of reset have the canonical form. -/
theorem State.reset_memory_wf :
    Memory.wf Config.ddramSize State.reset.dev.ddram = true ∧ Memory.wf Config.cgramSize State.reset.dev.cgram = true :=
  ⟨rfl, rfl⟩

end Sys2Proof.Machine
end

