-- ==== Sys2Proof/Laws/State.lean ====
section
/-! SUPPORT. The fields of a state after each named update of Machine/Ops.lean and Machine/Device.lean: one lemma a
field, so that no proof unfolds a record update. -/

namespace Sys2Proof.Machine

section
variable (frame : Frame) (out : SendOutcome) (s : State)

@[simp] theorem endAttempt_cfg : (endAttempt frame out s).cfg = s.cfg := rfl
@[simp] theorem endAttempt_busy : (endAttempt frame out s).busy = s.busy := rfl
@[simp] theorem endAttempt_req : (endAttempt frame out s).req = s.req := rfl
@[simp] theorem endAttempt_plan : (endAttempt frame out s).plan = s.plan := rfl
@[simp] theorem endAttempt_tail : (endAttempt frame out s).tail = s.tail := rfl
@[simp] theorem endAttempt_pc : (endAttempt frame out s).pc = s.pc := rfl
@[simp] theorem endAttempt_result : (endAttempt frame out s).result = s.result := rfl
@[simp] theorem endAttempt_lineBuf : (endAttempt frame out s).lineBuf = s.lineBuf := rfl
@[simp] theorem endAttempt_glyphBuf : (endAttempt frame out s).glyphBuf = s.glyphBuf := rfl
@[simp] theorem endAttempt_session : (endAttempt frame out s).session = false := rfl
@[simp] theorem endAttempt_stuck : (endAttempt frame out s).stuck = s.stuck := rfl
@[simp] theorem endAttempt_trace : (endAttempt frame out s).trace = s.trace ++ attemptEvents s.cfg.slave frame out := rfl
@[simp] theorem endAttempt_results : (endAttempt frame out s).results = s.results := rfl
@[simp] theorem endAttempt_port : (endAttempt frame out s).port = s.port := rfl
@[simp] theorem endAttempt_draws : (endAttempt frame out s).draws = s.draws := rfl
@[simp] theorem endAttempt_drawCount : (endAttempt frame out s).drawCount = s.drawCount := rfl
@[simp] theorem endAttempt_wire : (endAttempt frame out s).wire = s.wire := rfl
@[simp] theorem endAttempt_rx : (endAttempt frame out s).rx = s.rx := rfl
@[simp] theorem endAttempt_dev : (endAttempt frame out s).dev = s.dev := rfl

end

section
variable (frame : Frame) (s : State)

@[simp] theorem attemptAcked_cfg : (attemptAcked frame s).cfg = s.cfg := rfl
@[simp] theorem attemptAcked_busy : (attemptAcked frame s).busy = s.busy := rfl
@[simp] theorem attemptAcked_req : (attemptAcked frame s).req = s.req := rfl
@[simp] theorem attemptAcked_plan : (attemptAcked frame s).plan = s.plan := rfl
@[simp] theorem attemptAcked_tail : (attemptAcked frame s).tail = s.tail := rfl
@[simp] theorem attemptAcked_pc : (attemptAcked frame s).pc = s.pc := rfl
@[simp] theorem attemptAcked_result : (attemptAcked frame s).result = s.result := rfl
@[simp] theorem attemptAcked_lineBuf : (attemptAcked frame s).lineBuf = s.lineBuf := rfl
@[simp] theorem attemptAcked_glyphBuf : (attemptAcked frame s).glyphBuf = s.glyphBuf := rfl
@[simp] theorem attemptAcked_session : (attemptAcked frame s).session = false := rfl
@[simp] theorem attemptAcked_stuck : (attemptAcked frame s).stuck = s.stuck := rfl
@[simp] theorem attemptAcked_trace : (attemptAcked frame s).trace = s.trace ++ attemptEvents s.cfg.slave frame .ack := rfl
@[simp] theorem attemptAcked_results : (attemptAcked frame s).results = s.results := rfl
@[simp] theorem attemptAcked_port : (attemptAcked frame s).port = s.port := rfl
@[simp] theorem attemptAcked_draws : (attemptAcked frame s).draws = s.draws := rfl
@[simp] theorem attemptAcked_drawCount : (attemptAcked frame s).drawCount = s.drawCount := rfl
@[simp] theorem attemptAcked_wire : (attemptAcked frame s).wire = s.wire := rfl
@[simp] theorem attemptAcked_rx : (attemptAcked frame s).rx = s.rx := rfl
@[simp] theorem attemptAcked_dev : (attemptAcked frame s).dev = obsApply frame s.dev := rfl

end

section
variable (frame : Frame) (out : SendOutcome) (s : State)

@[simp] theorem attemptFailed_cfg : (attemptFailed frame out s).cfg = s.cfg := rfl
@[simp] theorem attemptFailed_busy : (attemptFailed frame out s).busy = s.busy := rfl
@[simp] theorem attemptFailed_req : (attemptFailed frame out s).req = s.req := rfl
@[simp] theorem attemptFailed_plan : (attemptFailed frame out s).plan = s.plan := rfl
@[simp] theorem attemptFailed_tail : (attemptFailed frame out s).tail = s.tail := rfl
@[simp] theorem attemptFailed_pc : (attemptFailed frame out s).pc = s.pc := rfl
@[simp] theorem attemptFailed_result : (attemptFailed frame out s).result = s.result := rfl
@[simp] theorem attemptFailed_lineBuf : (attemptFailed frame out s).lineBuf = s.lineBuf := rfl
@[simp] theorem attemptFailed_glyphBuf : (attemptFailed frame out s).glyphBuf = s.glyphBuf := rfl
@[simp] theorem attemptFailed_session : (attemptFailed frame out s).session = false := rfl
@[simp] theorem attemptFailed_stuck : (attemptFailed frame out s).stuck = s.stuck := rfl
@[simp] theorem attemptFailed_trace : (attemptFailed frame out s).trace = s.trace ++ attemptEvents s.cfg.slave frame out := rfl
@[simp] theorem attemptFailed_results : (attemptFailed frame out s).results = s.results := rfl
@[simp] theorem attemptFailed_port : (attemptFailed frame out s).port = s.port := rfl
@[simp] theorem attemptFailed_draws : (attemptFailed frame out s).draws = s.draws := rfl
@[simp] theorem attemptFailed_drawCount : (attemptFailed frame out s).drawCount = s.drawCount := rfl
@[simp] theorem attemptFailed_wire : (attemptFailed frame out s).wire = s.wire := rfl
@[simp] theorem attemptFailed_rx : (attemptFailed frame out s).rx = s.rx := rfl
@[simp] theorem attemptFailed_dev : (attemptFailed frame out s).dev = Dev.unknown := rfl

end

section
variable (r : Result) (s : State)

@[simp] theorem conclude_cfg : (conclude r s).cfg = s.cfg := rfl
@[simp] theorem conclude_busy : (conclude r s).busy = false := rfl
@[simp] theorem conclude_req : (conclude r s).req = s.req := rfl
@[simp] theorem conclude_plan : (conclude r s).plan = s.plan := rfl
@[simp] theorem conclude_tail : (conclude r s).tail = s.tail := rfl
@[simp] theorem conclude_pc : (conclude r s).pc = s.pc := rfl
@[simp] theorem conclude_result : (conclude r s).result = some r := rfl
@[simp] theorem conclude_lineBuf : (conclude r s).lineBuf = s.lineBuf := rfl
@[simp] theorem conclude_glyphBuf : (conclude r s).glyphBuf = s.glyphBuf := rfl
@[simp] theorem conclude_session : (conclude r s).session = s.session := rfl
@[simp] theorem conclude_stuck : (conclude r s).stuck = s.stuck := rfl
@[simp] theorem conclude_trace : (conclude r s).trace = s.trace := rfl
@[simp] theorem conclude_results : (conclude r s).results = s.results ++ [r] := rfl
@[simp] theorem conclude_port : (conclude r s).port = s.port := rfl
@[simp] theorem conclude_draws : (conclude r s).draws = s.draws := rfl
@[simp] theorem conclude_drawCount : (conclude r s).drawCount = s.drawCount := rfl
@[simp] theorem conclude_wire : (conclude r s).wire = s.wire := rfl
@[simp] theorem conclude_rx : (conclude r s).rx = s.rx := rfl
@[simp] theorem conclude_dev : (conclude r s).dev = s.dev := rfl

end

section
variable (e : Result) (s : State)

@[simp] theorem raise_cfg : (raise e s).cfg = s.cfg := rfl
@[simp] theorem raise_busy : (raise e s).busy = false := rfl
@[simp] theorem raise_req : (raise e s).req = s.req := rfl
@[simp] theorem raise_plan : (raise e s).plan = s.plan := rfl
@[simp] theorem raise_tail : (raise e s).tail = s.tail := rfl
@[simp] theorem raise_pc : (raise e s).pc = s.pc := rfl
@[simp] theorem raise_result : (raise e s).result = some e := rfl
@[simp] theorem raise_lineBuf : (raise e s).lineBuf = s.lineBuf := rfl
@[simp] theorem raise_glyphBuf : (raise e s).glyphBuf = s.glyphBuf := rfl
@[simp] theorem raise_session : (raise e s).session = s.session := rfl
@[simp] theorem raise_stuck : (raise e s).stuck = s.stuck := rfl
@[simp] theorem raise_trace : (raise e s).trace = s.trace := rfl
@[simp] theorem raise_results : (raise e s).results = s.results ++ [e] := rfl
@[simp] theorem raise_port : (raise e s).port = s.port := rfl
@[simp] theorem raise_draws : (raise e s).draws = s.draws := rfl
@[simp] theorem raise_drawCount : (raise e s).drawCount = s.drawCount := rfl
@[simp] theorem raise_wire : (raise e s).wire = s.wire := rfl
@[simp] theorem raise_rx : (raise e s).rx = s.rx := rfl
@[simp] theorem raise_dev : (raise e s).dev = s.dev := rfl

end

section
variable (t : Duration) (s : State)

@[simp] theorem settleFor_cfg : (settleFor t s).cfg = s.cfg := rfl
@[simp] theorem settleFor_busy : (settleFor t s).busy = s.busy := rfl
@[simp] theorem settleFor_req : (settleFor t s).req = s.req := rfl
@[simp] theorem settleFor_plan : (settleFor t s).plan = s.plan := rfl
@[simp] theorem settleFor_tail : (settleFor t s).tail = s.tail := rfl
@[simp] theorem settleFor_pc : (settleFor t s).pc = s.pc := rfl
@[simp] theorem settleFor_result : (settleFor t s).result = s.result := rfl
@[simp] theorem settleFor_lineBuf : (settleFor t s).lineBuf = s.lineBuf := rfl
@[simp] theorem settleFor_glyphBuf : (settleFor t s).glyphBuf = s.glyphBuf := rfl
@[simp] theorem settleFor_session : (settleFor t s).session = s.session := rfl
@[simp] theorem settleFor_stuck : (settleFor t s).stuck = s.stuck := rfl
@[simp] theorem settleFor_trace : (settleFor t s).trace = s.trace ++ [.settle t] := rfl
@[simp] theorem settleFor_results : (settleFor t s).results = s.results := rfl
@[simp] theorem settleFor_port : (settleFor t s).port = s.port := rfl
@[simp] theorem settleFor_draws : (settleFor t s).draws = s.draws := rfl
@[simp] theorem settleFor_drawCount : (settleFor t s).drawCount = s.drawCount := rfl
@[simp] theorem settleFor_wire : (settleFor t s).wire = s.wire := rfl
@[simp] theorem settleFor_rx : (settleFor t s).rx = s.rx := rfl
@[simp] theorem settleFor_dev : (settleFor t s).dev = s.dev := rfl

end

section
variable (f : Dev → Dev) (s : State)

@[simp] theorem onDev_cfg : (onDev f s).cfg = s.cfg := rfl
@[simp] theorem onDev_busy : (onDev f s).busy = s.busy := rfl
@[simp] theorem onDev_req : (onDev f s).req = s.req := rfl
@[simp] theorem onDev_plan : (onDev f s).plan = s.plan := rfl
@[simp] theorem onDev_tail : (onDev f s).tail = s.tail := rfl
@[simp] theorem onDev_pc : (onDev f s).pc = s.pc := rfl
@[simp] theorem onDev_result : (onDev f s).result = s.result := rfl
@[simp] theorem onDev_lineBuf : (onDev f s).lineBuf = s.lineBuf := rfl
@[simp] theorem onDev_glyphBuf : (onDev f s).glyphBuf = s.glyphBuf := rfl
@[simp] theorem onDev_session : (onDev f s).session = s.session := rfl
@[simp] theorem onDev_stuck : (onDev f s).stuck = s.stuck := rfl
@[simp] theorem onDev_trace : (onDev f s).trace = s.trace := rfl
@[simp] theorem onDev_results : (onDev f s).results = s.results := rfl
@[simp] theorem onDev_port : (onDev f s).port = s.port := rfl
@[simp] theorem onDev_draws : (onDev f s).draws = s.draws := rfl
@[simp] theorem onDev_drawCount : (onDev f s).drawCount = s.drawCount := rfl
@[simp] theorem onDev_wire : (onDev f s).wire = s.wire := rfl
@[simp] theorem onDev_rx : (onDev f s).rx = s.rx := rfl
@[simp] theorem onDev_dev : (onDev f s).dev = f s.dev := rfl

end

section
variable (dev : Dev)

@[simp] theorem Dev.clear_undef : (Dev.clear dev).undef = dev.undef := rfl
@[simp] theorem Dev.clear_ac : (Dev.clear dev).ac = some 0 := rfl
@[simp] theorem Dev.clear_sel : (Dev.clear dev).sel = some .dd := rfl
@[simp] theorem Dev.clear_id : (Dev.clear dev).id = some true := rfl
@[simp] theorem Dev.clear_s : (Dev.clear dev).s = dev.s := rfl
@[simp] theorem Dev.clear_d : (Dev.clear dev).d = dev.d := rfl
@[simp] theorem Dev.clear_c : (Dev.clear dev).c = dev.c := rfl
@[simp] theorem Dev.clear_b : (Dev.clear dev).b = dev.b := rfl
@[simp] theorem Dev.clear_dl : (Dev.clear dev).dl = dev.dl := rfl
@[simp] theorem Dev.clear_n : (Dev.clear dev).n = dev.n := rfl
@[simp] theorem Dev.clear_f : (Dev.clear dev).f = dev.f := rfl
@[simp] theorem Dev.clear_ddram : (Dev.clear dev).ddram = Memory.filled Config.ddramSize Config.clearFill := rfl
@[simp] theorem Dev.clear_cgram : (Dev.clear dev).cgram = dev.cgram := rfl

end

section
variable (dev : Dev)

@[simp] theorem Dev.home_undef : (Dev.home dev).undef = dev.undef := rfl
@[simp] theorem Dev.home_ac : (Dev.home dev).ac = some 0 := rfl
@[simp] theorem Dev.home_sel : (Dev.home dev).sel = some .dd := rfl
@[simp] theorem Dev.home_id : (Dev.home dev).id = dev.id := rfl
@[simp] theorem Dev.home_s : (Dev.home dev).s = dev.s := rfl
@[simp] theorem Dev.home_d : (Dev.home dev).d = dev.d := rfl
@[simp] theorem Dev.home_c : (Dev.home dev).c = dev.c := rfl
@[simp] theorem Dev.home_b : (Dev.home dev).b = dev.b := rfl
@[simp] theorem Dev.home_dl : (Dev.home dev).dl = dev.dl := rfl
@[simp] theorem Dev.home_n : (Dev.home dev).n = dev.n := rfl
@[simp] theorem Dev.home_f : (Dev.home dev).f = dev.f := rfl
@[simp] theorem Dev.home_ddram : (Dev.home dev).ddram = dev.ddram := rfl
@[simp] theorem Dev.home_cgram : (Dev.home dev).cgram = dev.cgram := rfl

end

section
variable (i sh : Bool) (dev : Dev)

@[simp] theorem Dev.setEntry_undef : (Dev.setEntry i sh dev).undef = dev.undef := rfl
@[simp] theorem Dev.setEntry_ac : (Dev.setEntry i sh dev).ac = dev.ac := rfl
@[simp] theorem Dev.setEntry_sel : (Dev.setEntry i sh dev).sel = dev.sel := rfl
@[simp] theorem Dev.setEntry_id : (Dev.setEntry i sh dev).id = some i := rfl
@[simp] theorem Dev.setEntry_s : (Dev.setEntry i sh dev).s = some sh := rfl
@[simp] theorem Dev.setEntry_d : (Dev.setEntry i sh dev).d = dev.d := rfl
@[simp] theorem Dev.setEntry_c : (Dev.setEntry i sh dev).c = dev.c := rfl
@[simp] theorem Dev.setEntry_b : (Dev.setEntry i sh dev).b = dev.b := rfl
@[simp] theorem Dev.setEntry_dl : (Dev.setEntry i sh dev).dl = dev.dl := rfl
@[simp] theorem Dev.setEntry_n : (Dev.setEntry i sh dev).n = dev.n := rfl
@[simp] theorem Dev.setEntry_f : (Dev.setEntry i sh dev).f = dev.f := rfl
@[simp] theorem Dev.setEntry_ddram : (Dev.setEntry i sh dev).ddram = dev.ddram := rfl
@[simp] theorem Dev.setEntry_cgram : (Dev.setEntry i sh dev).cgram = dev.cgram := rfl

end

section
variable (d c b : Bool) (dev : Dev)

@[simp] theorem Dev.setDisplay_undef : (Dev.setDisplay d c b dev).undef = dev.undef := rfl
@[simp] theorem Dev.setDisplay_ac : (Dev.setDisplay d c b dev).ac = dev.ac := rfl
@[simp] theorem Dev.setDisplay_sel : (Dev.setDisplay d c b dev).sel = dev.sel := rfl
@[simp] theorem Dev.setDisplay_id : (Dev.setDisplay d c b dev).id = dev.id := rfl
@[simp] theorem Dev.setDisplay_s : (Dev.setDisplay d c b dev).s = dev.s := rfl
@[simp] theorem Dev.setDisplay_d : (Dev.setDisplay d c b dev).d = some d := rfl
@[simp] theorem Dev.setDisplay_c : (Dev.setDisplay d c b dev).c = some c := rfl
@[simp] theorem Dev.setDisplay_b : (Dev.setDisplay d c b dev).b = some b := rfl
@[simp] theorem Dev.setDisplay_dl : (Dev.setDisplay d c b dev).dl = dev.dl := rfl
@[simp] theorem Dev.setDisplay_n : (Dev.setDisplay d c b dev).n = dev.n := rfl
@[simp] theorem Dev.setDisplay_f : (Dev.setDisplay d c b dev).f = dev.f := rfl
@[simp] theorem Dev.setDisplay_ddram : (Dev.setDisplay d c b dev).ddram = dev.ddram := rfl
@[simp] theorem Dev.setDisplay_cgram : (Dev.setDisplay d c b dev).cgram = dev.cgram := rfl

end

section
variable (dl n f : Bool) (dev : Dev)

@[simp] theorem Dev.setFunction_undef : (Dev.setFunction dl n f dev).undef = dev.undef := rfl
@[simp] theorem Dev.setFunction_ac : (Dev.setFunction dl n f dev).ac = dev.ac := rfl
@[simp] theorem Dev.setFunction_sel : (Dev.setFunction dl n f dev).sel = dev.sel := rfl
@[simp] theorem Dev.setFunction_id : (Dev.setFunction dl n f dev).id = dev.id := rfl
@[simp] theorem Dev.setFunction_s : (Dev.setFunction dl n f dev).s = dev.s := rfl
@[simp] theorem Dev.setFunction_d : (Dev.setFunction dl n f dev).d = dev.d := rfl
@[simp] theorem Dev.setFunction_c : (Dev.setFunction dl n f dev).c = dev.c := rfl
@[simp] theorem Dev.setFunction_b : (Dev.setFunction dl n f dev).b = dev.b := rfl
@[simp] theorem Dev.setFunction_dl : (Dev.setFunction dl n f dev).dl = some dl := rfl
@[simp] theorem Dev.setFunction_n : (Dev.setFunction dl n f dev).n = some n := rfl
@[simp] theorem Dev.setFunction_f : (Dev.setFunction dl n f dev).f = some f := rfl
@[simp] theorem Dev.setFunction_ddram : (Dev.setFunction dl n f dev).ddram = dev.ddram := rfl
@[simp] theorem Dev.setFunction_cgram : (Dev.setFunction dl n f dev).cgram = dev.cgram := rfl

end

section
variable (a : BitVec 6) (dev : Dev)

@[simp] theorem Dev.setCg_undef : (Dev.setCg a dev).undef = dev.undef := rfl
@[simp] theorem Dev.setCg_ac : (Dev.setCg a dev).ac = some a.toNat := rfl
@[simp] theorem Dev.setCg_sel : (Dev.setCg a dev).sel = some .cg := rfl
@[simp] theorem Dev.setCg_id : (Dev.setCg a dev).id = dev.id := rfl
@[simp] theorem Dev.setCg_s : (Dev.setCg a dev).s = dev.s := rfl
@[simp] theorem Dev.setCg_d : (Dev.setCg a dev).d = dev.d := rfl
@[simp] theorem Dev.setCg_c : (Dev.setCg a dev).c = dev.c := rfl
@[simp] theorem Dev.setCg_b : (Dev.setCg a dev).b = dev.b := rfl
@[simp] theorem Dev.setCg_dl : (Dev.setCg a dev).dl = dev.dl := rfl
@[simp] theorem Dev.setCg_n : (Dev.setCg a dev).n = dev.n := rfl
@[simp] theorem Dev.setCg_f : (Dev.setCg a dev).f = dev.f := rfl
@[simp] theorem Dev.setCg_ddram : (Dev.setCg a dev).ddram = dev.ddram := rfl
@[simp] theorem Dev.setCg_cgram : (Dev.setCg a dev).cgram = dev.cgram := rfl

end

section
variable (a : BitVec 7) (dev : Dev)

@[simp] theorem Dev.setDd_undef : (Dev.setDd a dev).undef = dev.undef := rfl
@[simp] theorem Dev.setDd_ac : (Dev.setDd a dev).ac = some a.toNat := rfl
@[simp] theorem Dev.setDd_sel : (Dev.setDd a dev).sel = some .dd := rfl
@[simp] theorem Dev.setDd_id : (Dev.setDd a dev).id = dev.id := rfl
@[simp] theorem Dev.setDd_s : (Dev.setDd a dev).s = dev.s := rfl
@[simp] theorem Dev.setDd_d : (Dev.setDd a dev).d = dev.d := rfl
@[simp] theorem Dev.setDd_c : (Dev.setDd a dev).c = dev.c := rfl
@[simp] theorem Dev.setDd_b : (Dev.setDd a dev).b = dev.b := rfl
@[simp] theorem Dev.setDd_dl : (Dev.setDd a dev).dl = dev.dl := rfl
@[simp] theorem Dev.setDd_n : (Dev.setDd a dev).n = dev.n := rfl
@[simp] theorem Dev.setDd_f : (Dev.setDd a dev).f = dev.f := rfl
@[simp] theorem Dev.setDd_ddram : (Dev.setDd a dev).ddram = dev.ddram := rfl
@[simp] theorem Dev.setDd_cgram : (Dev.setDd a dev).cgram = dev.cgram := rfl

end

section
variable (a : Nat) (dev : Dev)

@[simp] theorem Dev.stepCounter_undef : (Dev.stepCounter a dev).undef = dev.undef := rfl
@[simp] theorem Dev.stepCounter_ac : (Dev.stepCounter a dev).ac = steppedAc dev.id a := rfl
@[simp] theorem Dev.stepCounter_sel : (Dev.stepCounter a dev).sel = dev.sel := rfl
@[simp] theorem Dev.stepCounter_id : (Dev.stepCounter a dev).id = dev.id := rfl
@[simp] theorem Dev.stepCounter_s : (Dev.stepCounter a dev).s = dev.s := rfl
@[simp] theorem Dev.stepCounter_d : (Dev.stepCounter a dev).d = dev.d := rfl
@[simp] theorem Dev.stepCounter_c : (Dev.stepCounter a dev).c = dev.c := rfl
@[simp] theorem Dev.stepCounter_b : (Dev.stepCounter a dev).b = dev.b := rfl
@[simp] theorem Dev.stepCounter_dl : (Dev.stepCounter a dev).dl = dev.dl := rfl
@[simp] theorem Dev.stepCounter_n : (Dev.stepCounter a dev).n = dev.n := rfl
@[simp] theorem Dev.stepCounter_f : (Dev.stepCounter a dev).f = dev.f := rfl
@[simp] theorem Dev.stepCounter_ddram : (Dev.stepCounter a dev).ddram = dev.ddram := rfl
@[simp] theorem Dev.stepCounter_cgram : (Dev.stepCounter a dev).cgram = dev.cgram := rfl

end

end Sys2Proof.Machine
end

