-- ==== Sys2Proof/Laws/Device.lean ====
section
/-! SUPPORT. What each operation of the device does, once: the data byte by its RAM, a frame of one byte, and what every
effect keeps. -/

namespace Sys2Proof.Machine

/-- A data byte into CGRAM at a cell that exists (R56). -/
theorem Dev.memWrite_cg {dev : Dev} {a : Nat} (b : Byte) (ha : dev.ac = some a) (hs : dev.sel = some .cg) (hlt : a < 64) :
    dev.memWrite b = { dev with ac := steppedAc dev.id a, cgram := Memory.write dev.cgram a (cgCell b) } := by
  simp only [Dev.memWrite, ha, Dev.storeByte, hs, Config.cgramSize, hlt, if_true, Dev.stepCounter]

/-- A data byte into DDRAM at a valid address of the line mode (R56, R57). -/
theorem Dev.memWrite_dd {dev : Dev} {a : Nat} (b : Byte) (ha : dev.ac = some a) (hs : dev.sel = some .dd)
    (hv : validDd dev.n a = true) :
    dev.memWrite b = { dev with ac := steppedAc dev.id a, ddram := Memory.write dev.ddram a (some b) } := by
  simp only [Dev.memWrite, ha, Dev.storeByte, hs, hv, if_true, Dev.stepCounter]

/-- Everything a data byte can do: one cell of one RAM and the counter, or the whole device unknown (R56, R57). -/
theorem Dev.memWrite_cases (b : Byte) (dev : Dev) :
    (∃ a, dev.ac = some a ∧ dev.sel = some .cg ∧ a < 64 ∧
      dev.memWrite b = { dev with ac := steppedAc dev.id a, cgram := Memory.write dev.cgram a (cgCell b) }) ∨
    (∃ a, dev.ac = some a ∧ dev.sel = some .dd ∧ validDd dev.n a = true ∧
      dev.memWrite b = { dev with ac := steppedAc dev.id a, ddram := Memory.write dev.ddram a (some b) }) ∨
    dev.memWrite b = Dev.unknown := by
  cases ha : dev.ac with
  | none => exact .inr (.inr (by simp only [Dev.memWrite, ha]; rfl))
  | some a =>
    cases hs : dev.sel with
    | none => exact .inr (.inr (by simp only [Dev.memWrite, ha, Dev.storeByte, hs]; rfl))
    | some ram =>
      cases ram with
      | cg =>
        by_cases hlt : a < 64
        · exact .inl ⟨a, rfl, rfl, hlt, hs ▸ Dev.memWrite_cg b ha hs hlt⟩
        · exact .inr (.inr (by simp only [Dev.memWrite, ha, Dev.storeByte, hs, Config.cgramSize, hlt, if_false]; rfl))
      | dd =>
        by_cases hv : validDd dev.n a = true
        · exact .inr (.inl ⟨a, rfl, rfl, hv, hs ▸ Dev.memWrite_dd b ha hs hv⟩)
        · exact .inr (.inr (by simp only [Dev.memWrite, ha, Dev.storeByte, hs, hv]; rfl))

/-- A frame of one instruction byte (R48). -/
theorem obsApply_iw (b : Byte) (dev : Dev) : obsApply ⟨0x00, [b]⟩ dev = obsInstrByte dev b := by simp [obsApply]

/-- A frame of one data byte (R48). -/
theorem obsApply_dw (b : Byte) (dev : Dev) : obsApply ⟨0x40, [b]⟩ dev = dev.memWrite b := by simp [obsApply, obsDataByte]

/-- The valid addresses end below the DDRAM's 128 cells (R57). -/
theorem validDd_le {n : Option Bool} {a : Nat} (h : validDd n a = true) : a ≤ 103 := by
  unfold validDd at h; split at h <;> simp at h <;> omega

theorem Dev.sound_unknown : Dev.unknown.Sound := by simp [Dev.Sound, Dev.unknown, Memory.wf, Memory.risingFrom]
theorem Dev.sound_obsInstr (x : Iw) (d : Dev) (h : d.Sound) : (obsInstr x d).Sound := by
  obtain ⟨h1, h2, h3, h4⟩ := h
  cases x with
  | setCg a => refine ⟨?_, h2, h3, h4⟩; intro k hk; simp [obsInstr] at hk; omega
  | setDd a => refine ⟨?_, h2, h3, h4⟩; intro k hk; simp [obsInstr] at hk; omega
  | clear => refine ⟨?_, ?_, h3, h4⟩; (intro k hk; simp [obsInstr] at hk; omega); exact Memory.wf_filled _ _
  | home => refine ⟨?_, h2, h3, h4⟩; intro k hk; simp [obsInstr] at hk; omega
  | _ => exact ⟨h1, h2, h3, h4⟩
theorem steppedAc_le (i : Option Bool) (a : Nat) (ha : a ≤ 126) : ∀ k, steppedAc i a = some k → k ≤ 127 := by
  intro k; unfold steppedAc; split <;> try split
  all_goals (intro h; cases h; try omega)
theorem Dev.sound_memWrite (v : Byte) (d : Dev) (h : d.Sound) : (d.memWrite v).Sound := by
  obtain ⟨h1, h2, h3, h4⟩ := h
  unfold Dev.memWrite
  cases ha : d.ac with
  | none => exact Dev.sound_unknown
  | some a =>
    simp only
    unfold Dev.storeByte
    split
    · split
      · next hlt =>
        refine ⟨?_, h2, ?_, ?_⟩
        · exact steppedAc_le _ a (by have : a < 64 := hlt; omega)
        · exact Memory.wf_write _ h3 hlt
        · intro x b hb
          simp only [Dev.stepCounter, Memory.read_write] at hb
          split at hb
          · unfold cgCell at hb; split at hb
            · next hle => injection hb with hb; subst hb; simpa [BitVec.le_def] using hle
            · cases hb
          · exact h4 x b hb
      · exact Dev.sound_unknown
    · split
      · next hv =>
        have : a ≤ 103 := by
          unfold validDd at hv; split at hv <;> simp at hv <;> omega
        refine ⟨?_, ?_, h3, h4⟩
        · exact steppedAc_le _ a (by omega)
        · exact Memory.wf_write (some v) h2 (by omega : a < 128)
      · exact Dev.sound_unknown
    · exact Dev.sound_unknown

theorem foldl_keeps {α} (P : Dev → Prop) (f : Dev → α → Dev) (hf : ∀ d a, P d → P (f d a)) (l : List α) (d : Dev) (h : P d) : P (l.foldl f d) := by
  induction l generalizing d with
  | nil => exact h
  | cons a rest ih => exact ih _ (hf _ _ h)

theorem obsApply_keeps (P : Dev → Prop) (h0 : P Dev.unknown) (h1 : ∀ x d, P d → P (obsInstr x d)) (h2 : ∀ v d, P d → P (d.memWrite v))
   (f : Frame) (d : Dev) (h : P d) : P (obsApply f d) := by
  unfold obsApply
  split
  · apply foldl_keeps P _ _ _ _ h
    intro d b hd; unfold obsInstrByte; split
    · exact h1 _ _ hd
    · exact h0
  · split
    · apply foldl_keeps P _ _ _ _ h
      exact fun d b hd => h2 _ _ hd
    · exact h0

/-- A device that is not undefined is known in every field but the counter and CGRAM (R60). -/
def KnownOnceDefined (dev : Dev) : Prop := dev.undef = false → dev.Known

theorem knownOnceDefined_unknown : KnownOnceDefined Dev.unknown := by simp [KnownOnceDefined, Dev.unknown]
theorem knownOnceDefined_obsInstr (x : Iw) (d : Dev) (h : KnownOnceDefined d) : KnownOnceDefined (obsInstr x d) := by
  intro hu
  have hk := h (by cases x <;> exact hu)
  obtain ⟨a1,a2,a3,a4,a5,a6,a7,a8,a9,a10⟩ := hk
  cases x <;> refine ⟨?_,?_,?_,?_,?_,?_,?_,?_,?_,?_⟩ <;> first | assumption | (simp [obsInstr]; done) | skip
  intro a ha; simp [obsInstr, Memory.read_filled, ha]
theorem knownOnceDefined_memWrite (v : Byte) (d : Dev) (h : KnownOnceDefined d) : KnownOnceDefined (d.memWrite v) := by
  intro hu
  unfold Dev.memWrite at hu ⊢
  cases ha : d.ac with
  | none => simp [ha, obsUndef, Dev.unknown] at hu
  | some a =>
    simp only [ha] at hu ⊢
    have hk : d.undef = false → d.Known := h
    unfold Dev.storeByte at hu ⊢
    cases hs : d.sel with
    | none => simp [hs, obsUndef, Dev.unknown] at hu
    | some r =>
      cases r with
      | cg =>
        simp only [hs] at hu ⊢
        split at hu
        · next hlt =>
          obtain ⟨a1,a2,a3,a4,a5,a6,a7,a8,a9,a10⟩ := hk hu
          simp only [hlt, if_true]
          exact ⟨by simp, a2,a3,a4,a5,a6,a7,a8,a9,a10⟩
        · simp [obsUndef, Dev.unknown] at hu
      | dd =>
        simp only [hs] at hu ⊢
        split at hu
        · next hv =>
          obtain ⟨a1,a2,a3,a4,a5,a6,a7,a8,a9,a10⟩ := hk hu
          simp only [hv, if_true]
          refine ⟨by simp, a2,a3,a4,a5,a6,a7,a8,a9,?_⟩
          intro x hx
          simp only [Dev.stepCounter, Memory.read_write]
          split
          · simp
          · exact a10 x hx
        · simp [obsUndef, Dev.unknown] at hu

theorem spaced_append (a b : List Event) (ha : spaced a = true) (hb : spaced b = true) : spaced (a ++ b) = true := by
  induction a using spaced.induct with
  | case1 => exact hb
  | case2 sl se p o rest ih => simp only [spaced, List.cons_append] at ha ⊢; exact ih ha
  | case3 rest ih => simp only [spaced, List.cons_append] at ha ⊢; exact ih ha
  | case4 l h1 h2 h3 =>
    exfalso
    unfold spaced at ha
    split at ha
    · exact h1 rfl
    · exact h2 _ _ _ _ _ rfl
    · exact h3 _ rfl
    · cases ha

theorem spaced_attemptEvents (sl f o) : spaced (attemptEvents sl f o) = true := rfl


end Sys2Proof.Machine
end

