-- ==== Sys2Proof/Laws/PerInstr.lean ====
section
/-! SUPPORT. Per instruction: the encoder writes a word of the instruction's own row of the opcode table. -/

namespace Sys2Proof.Laws.Opcode

/-- A row of spec/opcode_table.json: its width, its mask and its match. -/
structure Row where
  width : Nat
  mask  : Nat
  value : Nat
  deriving DecidableEq, Repr

/-- The row of each instruction, copied from the table. -/
def rowOf : Instr → Row
  | .selIw => ⟨8, 0xFF, 0x00⟩
  | .selDw => ⟨8, 0xFF, 0x40⟩
  | .clear => ⟨8, 0xFF, 0x01⟩
  | .home => ⟨8, 0xFF, 0x02⟩
  | .entryModeSet _ _ => ⟨8, 0xFC, 0x04⟩
  | .displayControl _ _ _ => ⟨8, 0xF8, 0x08⟩
  | .functionSet _ _ _ => ⟨8, 0xE3, 0x20⟩
  | .setCgram _ => ⟨8, 0xC0, 0x40⟩
  | .setDdram _ => ⟨8, 0x80, 0x80⟩
  | .dataByte _ => ⟨8, 0x00, 0x00⟩
  | .reqInit => ⟨16, 0xFFFF, 0x1000⟩
  | .reqClrdisp => ⟨16, 0xFFFF, 0x2000⟩
  | .reqHome => ⟨16, 0xFFFF, 0x3000⟩
  | .reqEntry _ _ => ⟨16, 0xFFFC, 0x4000⟩
  | .reqDispon _ _ => ⟨16, 0xFFFC, 0x5000⟩
  | .reqDispoff => ⟨16, 0xFFFF, 0x6000⟩
  | .reqSetcg _ => ⟨16, 0xFFC0, 0x7000⟩
  | .reqSetdd _ => ⟨16, 0xFF80, 0x8000⟩
  | .reqWrdata _ => ⟨16, 0xF000, 0x9000⟩
  | .reqDline _ _ => ⟨16, 0xFF00, 0xA000⟩
  | .reqLdglyph _ => ⟨16, 0xFFFF, 0xB000⟩
  | .reqIllegal _ => ⟨16, 0x0000, 0x0000⟩

/-- Does an encoded instruction have the width of a row and, under its mask, its match? -/
def Row.fits (row : Row) : Encoded → Bool
  | .wire _ b => decide (row.width = 8) && decide (b &&& BitVec.ofNat 8 row.mask = BitVec.ofNat 8 row.value)
  | .port item => decide (row.width = 16) && decide (item.word &&& BitVec.ofNat 16 row.mask = BitVec.ofNat 16 row.value)

/-- The encoder writes a word of the instruction's own row (R62, R65 to R71, R73, R77). -/
def Statement (i : Instr) : Prop := (rowOf i).fits (encode i) = true

theorem selIw : Statement .selIw := rfl
theorem selDw : Statement .selDw := rfl
theorem clear : Statement .clear := rfl
theorem home : Statement .home := rfl
theorem entryModeSet (id s : Bool) : Statement (.entryModeSet id s) := by cases id <;> cases s <;> rfl
theorem displayControl (d c b : Bool) : Statement (.displayControl d c b) := by cases d <;> cases c <;> cases b <;> rfl
theorem functionSet (dl n f : Bool) : Statement (.functionSet dl n f) := by cases dl <;> cases n <;> cases f <;> rfl
theorem setCgram (a : BitVec 6) : Statement (.setCgram a) := by unfold Statement; revert a; decide +kernel
theorem setDdram (a : BitVec 7) : Statement (.setDdram a) := by unfold Statement; revert a; decide +kernel
theorem dataByte (v : Byte) : Statement (.dataByte v) := by unfold Statement; revert v; decide +kernel
theorem reqInit : Statement .reqInit := rfl
theorem reqClrdisp : Statement .reqClrdisp := rfl
theorem reqHome : Statement .reqHome := rfl
theorem reqEntry (dir : Dir) (shift : Shift) : Statement (.reqEntry dir shift) := by cases dir <;> cases shift <;> rfl
theorem reqDispon (cursorOn blinkOn : Bool) : Statement (.reqDispon cursorOn blinkOn) := by
  cases cursorOn <;> cases blinkOn <;> rfl
theorem reqDispoff : Statement .reqDispoff := rfl
theorem reqSetcg (a : BitVec 6) : Statement (.reqSetcg a) := by unfold Statement; revert a; decide +kernel
theorem reqSetdd (a : BitVec 7) : Statement (.reqSetdd a) := by unfold Statement; revert a; decide +kernel
theorem reqWrdata (value : Nat) : Statement (.reqWrdata value) := by
  have h : ∀ v : BitVec 12, ((0x9000#16 ||| v.setWidth 16) &&& 0xF000#16) = 0x9000#16 := by decide +kernel
  simp [Statement, rowOf, Row.fits, encode, encodeRequest, h]
theorem reqDline (line : Nat) (text : List Byte) : Statement (.reqDline line text) := by
  have h : ∀ v : BitVec 8, ((0xA000#16 ||| v.setWidth 16) &&& 0xFF00#16) = 0xA000#16 := by decide +kernel
  simp [Statement, rowOf, Row.fits, encode, encodeRequest, h]
theorem reqLdglyph (table : List (List Nat)) : Statement (.reqLdglyph table) := by
  have fits_att : ∀ (row : Row) (w : RequestWord) (a b : Attachment), row.fits (.port ⟨w, a⟩) = row.fits (.port ⟨w, b⟩) :=
    fun _ _ _ _ => rfl
  exact (fits_att (rowOf (.reqLdglyph [])) 0xB000 (.glyphs table) (.glyphs [])).trans (by decide +kernel)
theorem reqIllegal (w : RequestWord) : Statement (.reqIllegal w) := by
  simp [Statement, rowOf, Row.fits, encode, encodeRequest]

end Sys2Proof.Laws.Opcode
end

