-- ==== Sys2Proof/Laws/Sequencer.lean ====
section
/-! SUPPORT. What the transport and the sequencer can do: one lemma for `send`, one for each way the loop of R19 ends,
one for acceptance. Later proofs cite these and unfold none of them. -/

namespace Sys2Proof.Machine

/-- An acknowledged attempt, when the transport's next listed answer is Ack. -/
theorem send_ack {frame : Frame} {s : State} {rest : List Draw} (hfit : frame.payload.length ≤ 32)
    (hd : s.draws = .ack :: rest) : send frame s = .acked (attemptAcked frame { s with draws := rest }) := by
  simp only [send, nextDraw, hd, Config.maxPayload, Nat.not_lt.2 hfit, if_false]
  rfl

/-- An attempt on an unavailable bus. -/
theorem send_busUnavailable {frame : Frame} {s : State} {rest : List Draw} (hfit : frame.payload.length ≤ 32)
    (hd : s.draws = .busUnavailable :: rest) :
    send frame s = .failed .busUnavailable (attemptFailed frame .busUnavailable { s with draws := rest }) := by
  simp only [send, nextDraw, hd, Config.maxPayload, Nat.not_lt.2 hfit, if_false]
  rfl

/-- An attempt the device does not acknowledge. -/
theorem send_noAck {frame : Frame} {s : State} {rest : List Draw} (hfit : frame.payload.length ≤ 32)
    (hd : s.draws = .noAck :: rest) :
    send frame s = .failed .noAck (attemptFailed frame .noAck { s with draws := rest }) := by
  simp only [send, nextDraw, hd, Config.maxPayload, Nat.not_lt.2 hfit, if_false]
  rfl

/-- An attempt the transport never answers. -/
theorem send_stall {frame : Frame} {s : State} {rest : List Draw} (hfit : frame.payload.length ≤ 32)
    (hd : s.draws = .stall :: rest) :
    send frame s = .stalled { s with draws := rest, session := true, stuck := true } := by
  simp only [send, nextDraw, hd, Config.maxPayload, Nat.not_lt.2 hfit, if_false]

/-- Everything `send` can do, whatever the transport answers: `u` is the state with the answer taken. -/
theorem send_cases (frame : Frame) (s : State) :
    ∃ rest count, let u : State := { s with draws := rest, drawCount := count }
      (send frame s = .acked (attemptAcked frame u) ∧ frame.payload.length ≤ 32) ∨
      (send frame s = .failed .oversize (attemptFailed frame .oversize u) ∧ 32 < frame.payload.length) ∨
      (send frame s = .failed .busUnavailable (attemptFailed frame .busUnavailable u) ∧ frame.payload.length ≤ 32) ∨
      (send frame s = .failed .noAck (attemptFailed frame .noAck u) ∧ frame.payload.length ≤ 32) ∨
      (send frame s = .stalled { u with session := true, stuck := true } ∧ frame.payload.length ≤ 32) := by
  by_cases hbig : 32 < frame.payload.length
  · refine ⟨s.draws, s.drawCount, .inr (.inl ⟨?_, hbig⟩)⟩
    simp only [send, Config.maxPayload, hbig, if_true]
    rfl
  · have hfit : frame.payload.length ≤ 32 := Nat.le_of_not_lt hbig
    cases hd : s.draws with
    | cons answer rest =>
      refine ⟨rest, s.drawCount, ?_⟩
      cases answer with
      | ack => exact .inl ⟨send_ack hfit hd, hfit⟩
      | busUnavailable => exact .inr (.inr (.inl ⟨send_busUnavailable hfit hd, hfit⟩))
      | noAck => exact .inr (.inr (.inr (.inl ⟨send_noAck hfit hd, hfit⟩)))
      | stall => exact .inr (.inr (.inr (.inr ⟨send_stall hfit hd, hfit⟩)))
    | nil =>
      refine ⟨[], s.drawCount + 1, ?_⟩
      simp only [send, nextDraw, hd, Config.maxPayload, hbig, if_false]
      cases Config.transportDraw s.drawCount with
      | ack => exact .inl ⟨rfl, hfit⟩
      | busUnavailable => exact .inr (.inr (.inl ⟨rfl, hfit⟩))
      | noAck => exact .inr (.inr (.inr (.inl ⟨rfl, hfit⟩)))
      | stall => exact .inr (.inr (.inr (.inr ⟨rfl, hfit⟩)))

/-- The state after a run of acknowledged frames, their draws being used up to `rest`. -/
def afterFrames (frames : List Frame) (rest : List Draw) (s : State) : State :=
  { s with
    session := frames.isEmpty && s.session
    draws := rest, trace := s.trace ++ ackTrace s.cfg.slave frames, pc := s.pc + frames.length
    dev := deliver frames s.dev }

theorem ackTrace_append (slave : BitVec 7) (p q : List Frame) :
    ackTrace slave (p ++ q) = ackTrace slave p ++ ackTrace slave q := by
  induction p with
  | nil => rfl
  | cons frame rest ih => simp [ackTrace, ih]

theorem deliver_append (p q : List Frame) (dev : Dev) : deliver (p ++ q) dev = deliver q (deliver p dev) := by
  simp [deliver]

@[simp] theorem deliver_nil (dev : Dev) : deliver [] dev = dev := rfl

@[simp] theorem deliver_cons (frame : Frame) (rest : List Frame) (dev : Dev) :
    deliver (frame :: rest) dev = deliver rest (obsApply frame dev) := rfl

/-- The loop runs through frames that are all acknowledged. -/
theorem runFrames_acked (frames more : List Frame) (rest : List Draw) (s : State)
    (hfit : ∀ frame ∈ frames, frame.payload.length ≤ 32)
    (hd : s.draws = List.replicate frames.length .ack ++ rest) :
    runFrames (frames ++ more) s = runFrames more (afterFrames frames rest s) := by
  induction frames generalizing s with
  | nil =>
    have hd : s.draws = rest := by simpa using hd
    subst hd
    simp [afterFrames, ackTrace]
  | cons frame frames ih =>
    rw [List.length_cons, List.replicate_succ, List.cons_append] at hd
    rw [List.cons_append, runFrames, send_ack (hfit frame (by simp)) hd]
    simp only
    rw [ih _ (fun g hg => hfit g (List.mem_cons_of_mem _ hg)) (by simp)]
    congr 1
    simp only [afterFrames, attemptAcked, endAttempt,
      attemptEvents, ackTrace, deliver_cons, List.length_cons, List.append_assoc, List.cons_append, List.nil_append, Bool.and_false,
      List.isEmpty_cons, Bool.false_and]
    congr 1
    omega

/-- A plan runs from its first frame (R19). -/
theorem runPlan_eq (plan : List Frame) (tail : Option Duration) (s : State) :
    runPlan plan tail s = runFrames plan { s with plan := plan, tail := tail, pc := 0 } := by
  simp [runPlan, resume]

/-- The end of a request whose frames are all acknowledged (R19, R60). -/
theorem finish_eq (s : State) : finish s = { s with
    trace := s.trace ++ tailTrace s.tail, result := some .ok, results := s.results ++ [.ok], busy := false,
    dev := if s.req = some .init then { s.dev with undef := false } else s.dev } := by
  unfold finish recoverDevice runTail
  cases ht : s.tail <;> simp only [conclude, settleFor, tailTrace, List.append_nil] <;>
    by_cases hr : s.req = some .init <;> simp [hr, ht]

/-- Acceptance by an idle block. -/
theorem accept_idle {req : Request} {body : State → State} {s : State} (h : s.busy = false) :
    accept req body s = body { s with busy := true, req := some req } := by simp [accept, h]

/-- A busy block leaves the request waiting on the port. -/
theorem accept_busy {req : Request} {body : State → State} {s : State} (h : s.busy = true) :
    accept req body s = { s with port := encodeRequest req :: s.port } := by simp [accept, h]

/-- Everything `accept` can do. -/
theorem accept_cases (req : Request) (body : State → State) (s : State) :
    (s.busy = true ∧ accept req body s = { s with port := encodeRequest req :: s.port }) ∨
      (s.busy = false ∧ accept req body s = body { s with busy := true, req := some req }) := by
  by_cases h : s.busy = true
  · exact .inl ⟨h, accept_busy h⟩
  · have h := Bool.eq_false_iff.2 h
    exact .inr ⟨h, accept_idle h⟩

/-- An induction over the loop: a property that holds of every state the loop passes through holds of the state it
ends in. `P` is about the frames left and the state before them, `Q` about the end. -/
theorem runFrames_induct {P : List Frame → State → Prop} {Q : State → Prop}
    (hnil : ∀ s, P [] s → Q (finish s))
    (hack : ∀ frame rest s s', P (frame :: rest) s → send frame s = .acked s' → P rest { s' with pc := s'.pc + 1 })
    (hfail : ∀ frame rest s s' cause, P (frame :: rest) s → send frame s = .failed cause s' →
      Q (raise (.transportError cause s'.pc) s'))
    (hstall : ∀ frame rest s s', P (frame :: rest) s → send frame s = .stalled s' → Q s') :
    ∀ frames s, P frames s → Q (runFrames frames s) := by
  intro frames
  induction frames with
  | nil => exact hnil
  | cons frame rest ih =>
    intro s h
    rw [runFrames]
    cases hs : send frame s with
    | acked s' => exact ih _ (hack _ _ _ _ h hs)
    | failed cause s' => exact hfail _ _ _ _ _ h hs
    | stalled s' => exact hstall _ _ _ _ h hs

/-- The fields that no attempt, no result and no stall touches: configuration, request, plan, tail, buffers, inputs. -/
def fixedPart (s : State) :
    Cfg × Option Request × List Frame × Option Duration × List Byte × List (List (BitVec 5)) × List PortItem ×
      List BusEvent × Rx :=
  (s.cfg, s.req, s.plan, s.tail, s.lineBuf, s.glyphBuf, s.port, s.wire, s.rx)

theorem fixedPart_finish (s : State) : fixedPart (finish s) = fixedPart s := by
  have h1 : fixedPart (runTail s) = fixedPart s := by unfold runTail; split <;> rfl
  have h2 : ∀ u, fixedPart (recoverDevice u) = fixedPart u := by intro u; unfold recoverDevice; split <;> rfl
  rw [finish, h2]
  exact h1

/-- The loop of R19 touches none of them. -/
theorem fixedPart_runFrames (frames : List Frame) (s : State) : fixedPart (runFrames frames s) = fixedPart s := by
  refine runFrames_induct (P := fun _ u => fixedPart u = fixedPart s) (Q := fun u => fixedPart u = fixedPart s)
    ?_ ?_ ?_ ?_ frames s rfl
  · exact fun u hu => (fixedPart_finish u).trans hu
  all_goals
    intro frame _ u u'
    obtain ⟨_, _, h | h | h | h | h⟩ := send_cases frame u
    all_goals rw [h.1]
  all_goals intros
  all_goals first
    | contradiction
    | (rename_i hu h2; injection h2 with h2; subst h2; exact hu)
    | (rename_i hu h2; injection h2 with h1 h2; subst h2; exact hu)

end Sys2Proof.Machine
end

