-- ==== Sys2Proof/Laws/Requests.lean ====
section
/-! SUPPORT. What a request of the port does in an idle block: it is refused with a result before any attempt, or it
runs the plan that the spec tabulates. -/

namespace Sys2Proof.Machine

theorem encSetCg_eq (a : BitVec 6) : encSetCg a = BitVec.ofNat 8 (0x40 + a.toNat) := by revert a; decide
theorem encSetDd_eq (a : BitVec 7) : encSetDd a = BitVec.ofNat 8 (0x80 + a.toNat) := by revert a; decide

theorem validGlyphs_iff (table) : validGlyphs table = true ↔ glyphTableOk table := by
  simp [validGlyphs, glyphTableOk, Config.nGlyphs, Config.nRows]

theorem rowOperand_table : ∀ x, x < 32 → rowOperand (BitVec.ofNat 5 x) = BitVec.ofNat 8 x := by decide
theorem rowOperand_ofNat {row : Nat} (h : row ≤ 0x1F) : rowOperand (BitVec.ofNat 5 row) = BitVec.ofNat 8 row :=
  rowOperand_table row (by omega)
theorem encSetCg_slotBase : ∀ i, i < 8 → encSetCg (slotBase i) = BitVec.ofNat 8 (0x40 + 8 * i) := by decide

theorem slotFrames_eq (i : Nat) (hi : i < 8) (g : List Nat) (hg : ∀ row ∈ g, row ≤ 0x1F) :
    slotFrames i (g.map fun row => BitVec.ofNat 5 row) = slotPlan i g := by
  simp only [slotFrames, slotPlan, iwFrame, dwFrame, Config.selIw, Config.selDw, encSetCg_slotBase i hi, List.map_map]
  congr 1
  apply List.map_congr_left
  intro row hr
  simp [rowOperand_ofNat (hg row hr)]

theorem glyphFrames_eq (table : List (List Nat)) (h : ∀ g ∈ table, ∀ row ∈ g, row ≤ 0x1F) (k : Nat) (hk : k + table.length ≤ 8) :
    glyphFrames k (packRows table) = (List.range' k table.length).flatMap fun i => slotPlan i (table.getD (i - k) []) := by
  induction table generalizing k with
  | nil => rfl
  | cons g rest ih =>
    have ih := ih (fun g' hg' => h g' (by simp [hg'])) (k+1) (by simp at hk; omega)
    simp only [packRows] at ih
    simp only [packRows, List.map_cons, glyphFrames]
    rw [ih]
    simp only [List.length_cons, List.range'_succ, List.flatMap_cons]
    congr 1
    · simp at hk
      rw [slotFrames_eq k (by omega) g (h g (by simp))]
      simp
    · simp only [List.flatMap_def]; congr 1; apply List.map_congr_left
      intro i hi
      simp only [List.mem_range'_1] at hi
      have h1 : i - k = (i - (k + 1)) + 1 := by omega
      rw [h1, List.getD_cons_succ]

theorem exec_ofPlan (req plan tail) (s : State) (hp : planOf req = some (plan, tail)) (hb : s.busy = false) :
    exec (.ofRequest req) s = .next (runPlan plan tail (buffered req { s with busy := true, req := some req })) := by
  have hacc : ∀ body, accept req body s = body { s with busy := true, req := some req } := fun _ => accept_idle hb
  cases req with
  | init => simp [planOf] at hp; obtain ⟨rfl, rfl⟩ := hp; simp only [Instr.ofRequest, exec, execInit, runRequest, hacc]; rfl
  | clearDisplay => simp [planOf] at hp; obtain ⟨rfl, rfl⟩ := hp; simp only [Instr.ofRequest, exec, execClrdisp, runRequest, hacc]; rfl
  | returnHome => simp [planOf] at hp; obtain ⟨rfl, rfl⟩ := hp; simp only [Instr.ofRequest, exec, execReqHome, runRequest, hacc]; rfl
  | setEntryMode d sh =>
    cases d <;> cases sh <;> simp [planOf] at hp <;> obtain ⟨rfl, rfl⟩ := hp <;> simp only [Instr.ofRequest, exec, execEntry, runRequest, hacc] <;> rfl
  | setDisplayOn c b =>
    cases c <;> cases b <;> simp [planOf] at hp <;> obtain ⟨rfl, rfl⟩ := hp <;> simp only [Instr.ofRequest, exec, execDispon, runRequest, hacc] <;> rfl
  | setDisplayOff => simp [planOf] at hp; obtain ⟨rfl, rfl⟩ := hp; simp only [Instr.ofRequest, exec, execDispoff, runRequest, hacc]; rfl
  | setCgramAddress a => simp [planOf] at hp; obtain ⟨rfl, rfl⟩ := hp; simp only [Instr.ofRequest, exec, execSetcg, runRequest, hacc, encSetCg_eq]; rfl
  | setDdramAddress a => simp [planOf] at hp; obtain ⟨rfl, rfl⟩ := hp; simp only [Instr.ofRequest, exec, execSetdd, runRequest, hacc, encSetDd_eq]; rfl
  | writeRamData v => simp [planOf] at hp; obtain ⟨rfl, rfl⟩ := hp; simp only [Instr.ofRequest, exec, execWrdata, runRequest, hacc]; rfl
  | displayLine line text =>
    simp only [planOf] at hp
    split at hp
    · next hle =>
      split at hp <;> simp at hp <;> obtain ⟨rfl, rfl⟩ := hp <;>
        simp only [Instr.ofRequest, exec, execDline, hacc, runLine, lineBase, Nat.not_lt.2 hle, if_false] <;> rfl
    · cases hp
  | loadGlyphs table =>
    simp only [planOf] at hp
    split at hp
    · next hok =>
      simp at hp; obtain ⟨rfl, rfl⟩ := hp
      simp only [Instr.ofRequest, exec, execLdglyph, hacc, runGlyphs, (validGlyphs_iff table).2 hok, if_true]
      rw [glyphFrames_eq table (fun g hg => (hok.2 g hg).2) 0 (by omega)]
      simp [glyphPlan, hok.1, List.range_eq_range', buffered, packRows]
    · cases hp
  | illegal w => simp [planOf] at hp

theorem planOf_fits {req plan tail} (hp : planOf req = some (plan, tail)) : ∀ f ∈ plan, f.payload.length ≤ 32 := by
  cases req with
  | setEntryMode d sh => cases d <;> cases sh <;> simp [planOf] at hp <;> obtain ⟨rfl, rfl⟩ := hp <;> simp
  | setDisplayOn d sh => cases d <;> cases sh <;> simp [planOf] at hp <;> obtain ⟨rfl, rfl⟩ := hp <;> simp
  | displayLine line text =>
    simp only [planOf] at hp
    split at hp
    · next hle => split at hp <;> simp at hp <;> obtain ⟨rfl, rfl⟩ := hp <;> simpa using hle
    · cases hp
  | loadGlyphs table =>
    simp only [planOf] at hp
    split at hp
    · simp at hp; obtain ⟨rfl, rfl⟩ := hp
      intro f hf
      simp only [glyphPlan, List.mem_flatMap, slotPlan, List.mem_cons, List.mem_map] at hf
      obtain ⟨i, _, rfl | ⟨r, _, rfl⟩⟩ := hf <;> simp
    · cases hp
  | _ => simp [planOf] at hp <;> obtain ⟨rfl, rfl⟩ := hp <;> simp


theorem planOf_ne_nil {req plan tail} (hp : planOf req = some (plan, tail)) : plan ≠ [] := by
  intro h; subst h
  cases req with
  | setEntryMode d sh => cases d <;> cases sh <;> simp [planOf] at hp
  | setDisplayOn d sh => cases d <;> cases sh <;> simp [planOf] at hp
  | displayLine line text =>
    simp only [planOf] at hp
    split at hp
    · split at hp <;> simp at hp
    · cases hp
  | loadGlyphs table =>
    simp only [planOf] at hp
    split at hp
    · simp [glyphPlan, slotPlan, List.range_succ] at hp
    · cases hp
  | _ => simp [planOf] at hp


/-- A request with no plan ends before any attempt, with one result (R19, R112). -/
theorem exec_ofNoPlan (req : Request) (s : State) (hp : planOf req = none) (hb : s.busy = false) :
    ∃ e, exec (.ofRequest req) s = .next (refusedWith req e s) := by
  have hacc : ∀ body, accept req body s = body { s with busy := true, req := some req } := fun _ => accept_idle hb
  cases req with
  | setEntryMode d sh => cases d <;> cases sh <;> simp [planOf] at hp
  | setDisplayOn c b => cases c <;> cases b <;> simp [planOf] at hp
  | displayLine line text =>
    simp only [Instr.ofRequest, exec, execDline, hacc, runLine]
    split
    · split <;> exact ⟨_, rfl⟩
    · split
      · exact ⟨_, rfl⟩
      · next base hbase hlen =>
        simp only [planOf, if_pos (Nat.le_of_not_lt hlen)] at hp
        split at hp <;> first | (simp at hp; done) | skip
        unfold lineBase at hbase
        split at hbase <;> first | (simp at hbase; done) | (exfalso; simp_all)
  | loadGlyphs table =>
    simp only [planOf] at hp
    split at hp
    · cases hp
    · next hok =>
      have : validGlyphs table = false := by rw [← Bool.not_eq_true, validGlyphs_iff]; exact hok
      simp only [Instr.ofRequest, exec, execLdglyph, hacc, runGlyphs, this]
      exact ⟨_, rfl⟩
  | illegal w => simp only [Instr.ofRequest, exec, execIllegal, hacc]; exact ⟨_, rfl⟩
  | _ => simp [planOf] at hp

/-- Everything a request does in an idle block. -/
theorem exec_request_cases (req : Request) (s : State) (hb : s.busy = false) :
    (planOf req = none ∧ ∃ e, exec (.ofRequest req) s = .next (refusedWith req e s)) ∨
      ∃ plan tail, planOf req = some (plan, tail) ∧ exec (.ofRequest req) s =
        .next (runPlan plan tail (buffered req { s with busy := true, req := some req })) := by
  cases hp : planOf req with
  | none => exact .inl ⟨rfl, exec_ofNoPlan req s hp hb⟩
  | some p => exact .inr ⟨p.1, p.2, rfl, exec_ofPlan req p.1 p.2 s hp hb⟩

/-- A request at a busy block goes on waiting on the port (R20). -/
theorem exec_request_busy (req : Request) (s : State) (hb : s.busy = true) :
    exec (.ofRequest req) s = .next { s with port := encodeRequest req :: s.port } := by
  have hacc : ∀ req' body, accept req' body s = { s with port := encodeRequest req' :: s.port } := fun _ _ => accept_busy hb
  cases req <;>
    simp only [Instr.ofRequest, exec, execInit, execClrdisp, execReqHome, execEntry, execDispon, execDispoff, execSetcg,
      execSetdd, execWrdata, execDline, execLdglyph, execIllegal, runRequest, hacc]

/-- Every frame of a tabulated plan is one the block may issue, and there are at most 72 (R17, R35, R74). -/
theorem planOf_legal {req : Request} {plan : List Frame} {tail : Option Duration} (hp : planOf req = some (plan, tail)) :
    plan.all legalFrame = true ∧ plan.length ≤ 72 := by
  have hcg : ∀ a : BitVec 6, emittable (BitVec.ofNat 8 (0x40 + a.toNat)) = true := by decide
  have hdd : ∀ a : BitVec 7, emittable (BitVec.ofNat 8 (0x80 + a.toNat)) = true := by decide
  cases req with
  | setEntryMode d sh => cases d <;> cases sh <;> simp [planOf] at hp <;> obtain ⟨rfl, rfl⟩ := hp <;> decide
  | setDisplayOn c b => cases c <;> cases b <;> simp [planOf] at hp <;> obtain ⟨rfl, rfl⟩ := hp <;> decide
  | setCgramAddress a => simp [planOf] at hp; obtain ⟨rfl, rfl⟩ := hp; simp [legalFrame, hcg]
  | setDdramAddress a => simp [planOf] at hp; obtain ⟨rfl, rfl⟩ := hp; simp [legalFrame, hdd]
  | writeRamData v => simp [planOf] at hp; obtain ⟨rfl, rfl⟩ := hp; simp [legalFrame]
  | displayLine line text =>
    simp only [planOf] at hp
    split at hp
    · next hle =>
      split at hp <;> simp at hp <;> obtain ⟨rfl, rfl⟩ := hp <;> simp [legalFrame, hle, emittable]
    · cases hp
  | loadGlyphs table =>
    simp only [planOf] at hp
    split at hp
    · next hok =>
      simp at hp; obtain ⟨rfl, rfl⟩ := hp
      have hslot : ∀ i, i < 8 → emittable (BitVec.ofNat 8 (0x40 + 8 * i)) = true := by decide
      refine ⟨?_, ?_⟩
      · simp only [List.all_eq_true]
        intro f hf
        simp only [glyphPlan, List.mem_flatMap, slotPlan, List.mem_cons, List.mem_map, List.mem_range] at hf
        obtain ⟨i, hi, rfl | ⟨r, _, rfl⟩⟩ := hf
        · simp [legalFrame, hslot i hi]
        · simp [legalFrame]
      · have hlen : ∀ i, i < 8 → (slotPlan i (table.getD i [])).length = 9 := by
          intro i hi
          have h8 : i < table.length := by rw [hok.1]; exact hi
          have : table.getD i [] ∈ table := by simp [List.getD, h8]
          simp only [slotPlan, List.length_cons, List.length_map, (hok.2 _ this).1]
        have hr : List.range 8 = [0, 1, 2, 3, 4, 5, 6, 7] := rfl
        simp only [glyphPlan, hr, List.flatMap_cons, List.flatMap_nil, List.length_append, List.length_nil]
        have h0 := hlen 0 (by omega)
        have h1 := hlen 1 (by omega)
        have h2 := hlen 2 (by omega)
        have h3 := hlen 3 (by omega)
        have h4 := hlen 4 (by omega)
        have h5 := hlen 5 (by omega)
        have h6 := hlen 6 (by omega)
        have h7 := hlen 7 (by omega)
        omega
    · cases hp
  | illegal w => simp [planOf] at hp
  | _ => simp [planOf] at hp <;> obtain ⟨rfl, rfl⟩ := hp <;> decide

/-- What a request's buffer write leaves: everything but the two buffers. -/
theorem buffered_cases (req : Request) (s : State) :
    buffered req s = { s with lineBuf := (buffered req s).lineBuf, glyphBuf := (buffered req s).glyphBuf } := by
  cases req <;> rfl

end Sys2Proof.Machine
end

