-- ==== Sys2Proof/Laws/Step.lean ====
section
/-! SUPPORT. What one step can do, once. -/

namespace Sys2Proof.Machine

/-- An effect of the device's side of the bus: a selector, an instruction byte, a data byte, a byte that is no
instruction, or the end of the transfer. -/
def WireEffect (s t : State) : Prop :=
  (∃ rx, t = { s with rx := rx }) ∨ (∃ x, t = { s with dev := obsInstr x s.dev }) ∨
    (∃ v, t = { s with dev := s.dev.memWrite v }) ∨ ∃ rx, t = { s with rx := rx, dev := Dev.unknown }

/-- A byte on the device's side has such an effect, whatever it is. -/
theorem takeWire_cases (ev : BusEvent) (s : State) :
    (∃ t, takeWire ev s = .advance t ∧ WireEffect s t) ∨
      ∃ i t, takeWire ev s = .run i s ∧ exec i s = .next t ∧ WireEffect s t := by
  cases ev with
  | stop => exact .inl ⟨_, rfl, .inl ⟨_, rfl⟩⟩
  | byte b =>
    cases hd : decodeWire s.rx b with
    | reject why =>
      refine .inl ⟨takeRejected why s, by simp [takeWire, hd], .inr (.inr (.inr ?_))⟩
      cases why with
      | unknownSelector b => exact ⟨.other, rfl⟩
      | reservedInstructionByte b => exact ⟨s.rx, rfl⟩
      | noRegister b => exact ⟨s.rx, rfl⟩
    | instr i =>
      refine .inr ?_
      have hrun : takeWire (.byte b) s = .run i s := by simp [takeWire, hd]
      unfold decodeWire at hd
      split at hd
      · split at hd
        · injection hd with hd; subst hd; exact ⟨_, _, hrun, rfl, .inl ⟨_, rfl⟩⟩
        · split at hd
          · injection hd with hd; subst hd; exact ⟨_, _, hrun, rfl, .inl ⟨_, rfl⟩⟩
          · cases hd
      · split at hd
        · next x _ =>
          injection hd with hd
          subst hd
          refine ⟨_, { s with dev := obsInstr x s.dev }, hrun, ?_, .inr (.inl ⟨x, rfl⟩)⟩
          cases x <;> rfl
        · cases hd
      · injection hd with hd; subst hd; exact ⟨_, _, hrun, rfl, .inr (.inr (.inl ⟨b, rfl⟩))⟩
      · cases hd

/-- Everything a step that answers a next state can have done. -/
theorem step_cases {s t : State} (h : step s = .next t) :
    legalCfg s.cfg = true ∧
      ((∃ ev rest, s.wire = ev :: rest ∧ WireEffect { s with wire := rest } t) ∨
        (s.wire = [] ∧ s.stuck = false ∧ s.busy = true ∧ t = resume s) ∨
        (s.wire = [] ∧ s.stuck = false ∧ s.busy = false ∧ s.port = [] ∧ t = s) ∨
        ∃ item rest, s.wire = [] ∧ s.stuck = false ∧ s.busy = false ∧ s.port = item :: rest ∧
          exec (.ofRequest (decodeRequest item)) { s with port := rest } = .next t) := by
  unfold step at h
  split at h
  · next hl =>
    refine ⟨hl, ?_⟩
    cases hw : s.wire with
    | cons ev rest =>
      refine .inl ⟨ev, rest, rfl, ?_⟩
      rcases takeWire_cases ev { s with wire := rest } with ⟨u, hu, he⟩ | ⟨i, u, hu, hx, he⟩
      · simp only [nextWork, hw, hu, Host.Outcome.next.injEq] at h
        exact h ▸ he
      · simp only [nextWork, hw, hu, hx, Host.Outcome.next.injEq] at h
        exact h ▸ he
    | nil =>
      refine .inr ?_
      simp only [nextWork, hw, blockWork] at h
      cases hst : s.stuck with
      | true => simp [hst] at h
      | false =>
        cases hb : s.busy with
        | true => simp [hst, hb] at h; exact .inl ⟨rfl, rfl, rfl, h.symm⟩
        | false =>
          refine .inr ?_
          cases hp : s.port with
          | nil => simp [hst, hb, takePort, hp] at h; exact .inl ⟨rfl, rfl, rfl, rfl, h.symm⟩
          | cons item rest =>
            simp [hst, hb, takePort, hp] at h
            exact .inr ⟨item, rest, rfl, rfl, rfl, rfl, by rw [hw] at h; exact h⟩
  · cases h

end Sys2Proof.Machine
end

