-- ==== Sys2Proof/Tests/Slice0.lean ====
section
/-! SUPPORT. The model's own tests: ill-formed terms, decoding by words written out from the spec, one step or one
request of each family with the values of 95_test_vectors.md (W1 to W11, tables 2.1 to 2.8), and a witness for the
hypotheses of every statement. -/

namespace Sys2Proof.Machine.Tests

/-! ## Helpers -/

/-- An idle block whose transport gives these answers. -/
def idle (draws : List Draw) : State := { State.reset with draws := draws }

/-- The same with one request on the port. -/
def waiting (item : PortItem) (draws : List Draw) : State := { State.reset with draws := draws, port := [item] }

/-- A device in two-line mode with the entry direction `id`, its RAM select and its counter. -/
def device (id : Bool) (ram : Ram) (ac : Nat) : Dev :=
  { Dev.unknown with n := some true, id := some id, sel := some ram, ac := some ac }

/-- An idle block before such a device. -/
def before (dev : Dev) (draws : List Draw) : State := { State.reset with draws := draws, dev := dev }

/-- A block with these bytes on the device's side of the bus. -/
def onWire (rx : Rx) (events : List BusEvent) : State := { State.reset with rx := rx, wire := events }

/-- The state an outcome goes on to. -/
def after : Host.Outcome State Fault Refusal → Option State
  | .next t => some t
  | .fault _ => none
  | .refused _ => none

/-- The frames attempted in a trace. -/
def attempts : List Event → List (Byte × List Byte × SendOutcome)
  | [] => []
  | .attempt _ sel payload out :: rest => (sel, payload, out) :: attempts rest
  | .settle _ :: rest => attempts rest

/-- What a request did: its attempts and its result. -/
def served (o : Host.Outcome State Fault Refusal) : Option (List (Byte × List Byte × SendOutcome) × Option Result) :=
  (after o).map fun t => (attempts t.trace, t.result)

/-- The device after an outcome. -/
def devAfter (o : Host.Outcome State Fault Refusal) : Option Dev := (after o).map State.dev

/-- The glyph of W4. -/
def glyphW4 : List Nat := [0x11, 0x11, 0x11, 0x11, 0x11, 0x11, 0x11, 0x1F]

/-- The table of W4. -/
def tableW4 : List (List Nat) := List.replicate 8 glyphW4

/-- 72 acknowledged attempts. -/
def acks72 : List Draw := List.replicate 72 .ack

/-- A step takes the fetched word as an instruction and goes on. -/
def stepRuns (nbits w : Nat) : Bool := (after (step (State.reset.withFetchWord nbits w))).isSome

/-! ## Well-formed instructions -/

theorem test_wellFormed_wrdata_12_bits : wellFormed (.reqWrdata 4096) = false ∧ wellFormed (.reqWrdata 4095) = true := by decide
theorem test_wellFormed_dline_8_bits : wellFormed (.reqDline 256 []) = false ∧ wellFormed (.reqDline 255 []) = true := by decide

/-! ## Decoding: one word written out from the spec's encoding for each constructor -/

-- R62: the selectors.
theorem test_decode_selectors : decodeWire .frameStart 0b00000000 = .instr .selIw ∧ decodeWire .frameStart 0b01000000 = .instr .selDw ∧
    decodeWire .frameStart 0b10000000 = .reject (.unknownSelector 0x80) := by decide
-- R65, R66.
theorem test_decode_clear_home : decodeWire .ir 0b00000001 = .instr .clear ∧ decodeWire .ir 0b00000010 = .instr .home := by decide
-- R67: 0000_01 ID S.
theorem test_decode_entry : decodeWire .ir 0b00000110 = .instr (.entryModeSet true false) ∧
    decodeWire .ir 0b00000101 = .instr (.entryModeSet false true) := by decide
-- R68: 0000_1 D C B.
theorem test_decode_display : decodeWire .ir 0b00001100 = .instr (.displayControl true false false) ∧
    decodeWire .ir 0b00001001 = .instr (.displayControl false false true) := by decide
-- R69: 001 DL N F 00.
theorem test_decode_function : decodeWire .ir 0b00111000 = .instr (.functionSet true true false) ∧
    decodeWire .ir 0b00100100 = .instr (.functionSet false false true) := by decide
-- R70, R71: 01 and the 6-bit address, 1 and the 7-bit address.
theorem test_decode_addresses : decodeWire .ir 0b01001000 = .instr (.setCgram 0x08) ∧ decodeWire .ir 0b01111111 = .instr (.setCgram 0x3F) ∧
    decodeWire .ir 0b11000000 = .instr (.setDdram 0x40) ∧ decodeWire .ir 0b11111111 = .instr (.setDdram 0x7F) := by decide
-- R73: any data byte.
theorem test_decode_data : decodeWire .dr 0x00 = .instr (.dataByte 0x00) ∧ decodeWire .dr 0xFF = .instr (.dataByte 0xFF) := by decide
-- R75 and table 2.6: reserved bytes.
theorem test_decode_reserved : [0x00, 0x03, 0x10, 0x1F, 0x21, 0x3F].all (fun b => decodeIw b = none) = true := by decide
-- R77, tables 2.1 and 2.2.
theorem test_decode_bare_requests : decode (.port ⟨0x1000, .absent⟩) = .instr .reqInit ∧ decode (.port ⟨0x2000, .absent⟩) = .instr .reqClrdisp ∧
    decode (.port ⟨0x3000, .absent⟩) = .instr .reqHome ∧ decode (.port ⟨0x6000, .absent⟩) = .instr .reqDispoff := by decide
theorem test_decode_flag_requests : decode (.port ⟨0x4002, .absent⟩) = .instr (.reqEntry .left .off) ∧
    decode (.port ⟨0x4001, .absent⟩) = .instr (.reqEntry .right .on) ∧ decode (.port ⟨0x5002, .absent⟩) = .instr (.reqDispon true false) ∧
    decode (.port ⟨0x5001, .absent⟩) = .instr (.reqDispon false true) := by decide
theorem test_decode_operand_requests : decode (.port ⟨0x703F, .absent⟩) = .instr (.reqSetcg 0x3F) ∧
    decode (.port ⟨0x807F, .absent⟩) = .instr (.reqSetdd 0x7F) ∧ decode (.port ⟨0x9ABC, .absent⟩) = .instr (.reqWrdata 0xABC) := by decide
theorem test_decode_list_requests : decode (.port ⟨0xA0FF, .bytes [0x41]⟩) = .instr (.reqDline 255 [0x41]) ∧
    decode (.port ⟨0xB000, .glyphs [[1, 2]]⟩) = .instr (.reqLdglyph [[1, 2]]) := by decide
-- Table 2.5.
theorem test_decode_illegal_requests : decode (.port ⟨0x0000, .absent⟩) = .instr (.reqIllegal 0x0000) ∧
    decode (.port ⟨0x2000, .bytes [0x41]⟩) = .instr (.reqIllegal 0x2000) ∧ decode (.port ⟨0x4004, .absent⟩) = .instr (.reqIllegal 0x4004) ∧
    decode (.port ⟨0x7040, .absent⟩) = .instr (.reqIllegal 0x7040) ∧ decode (.port ⟨0xA001, .absent⟩) = .instr (.reqIllegal 0xA001) ∧
    decode (.port ⟨0xA101, .bytes [0x41]⟩) = .instr (.reqIllegal 0xA101) ∧ decode (.port ⟨0xB001, .glyphs []⟩) = .instr (.reqIllegal 0xB001) ∧
    decode (.port ⟨0xF123, .absent⟩) = .instr (.reqIllegal 0xF123) := by decide
-- The encoder, by the same words.
theorem test_encode_words : encode (.entryModeSet true false) = .wire .ir 0x06 ∧ encode (.functionSet true true false) = .wire .ir 0x38 ∧
    encode (.reqEntry .left .on) = .port ⟨0x4003, .absent⟩ ∧ encode (.reqWrdata 0x141) = .port ⟨0x9141, .absent⟩ := by decide
-- The opcode table's own numbering.
theorem test_table_words : decodeTableWord 8 0x00 = some .selIw ∧ decodeTableWord 8 0x40 = some .selDw ∧ decodeTableWord 8 0x80 = some (.setDdram 0) ∧
    decodeTableWord 8 0x1F = some (.dataByte 0x1F) ∧ decodeTableWord 16 0x1000 = some .reqInit ∧
    decodeTableWord 16 0xA001 = some (.reqDline 1 []) ∧ decodeTableWord 16 0x0000 = some (.reqIllegal 0) ∧ decodeTableWord 12 0 = none := by decide
theorem test_table_words_run : stepRuns 8 0x00 = true ∧ stepRuns 8 0x40 = true ∧ stepRuns 8 0x01 = true ∧ stepRuns 8 0x38 = true ∧
    stepRuns 8 0x1F = true ∧ stepRuns 16 0x1000 = true ∧ stepRuns 16 0x4002 = true ∧ stepRuns 16 0x9041 = true ∧ stepRuns 16 0xA001 = true ∧
    stepRuns 16 0xB000 = true ∧ stepRuns 16 0x0000 = true := by decide

/-! ## The device's side -/

theorem test_selector_opens_frame : ∃ t, step (onWire .frameStart [.byte 0x40, .byte 0x41]) = .next t ∧ t.rx = .dr ∧ t.wire = [.byte 0x41] :=
  ⟨_, rfl, rfl, rfl⟩
-- R48: a frame with another selector undefines the device.
theorem test_unknown_selector : ∃ t, step { onWire .frameStart [.byte 0x80] with dev := device true .dd 0 } = .next t ∧ t.dev = Dev.unknown ∧ t.rx = .other :=
  ⟨_, rfl, rfl, rfl⟩
-- R49, R132: Clear sets the direction to increment and leaves S.
theorem test_clear_keeps_shift : (devAfter (exec .clear (before { device false .cg 9 with s := some true } []))).map
    (fun d => (d.id, d.s, d.sel)) = some (some true, some true, some .dd) := by decide
-- Table 2.8: SETDD 0x45, HOME.
theorem test_home : (devAfter (exec .home (before (device true .cg 0x45) []))).map (fun d => (d.ac, d.sel)) = some (some 0, some .dd) := by decide
theorem test_entryModeSet : (devAfter (exec (.entryModeSet false true) State.reset)).map (fun d => (d.id, d.s)) = some (some false, some true) := by decide
theorem test_displayControl : (devAfter (exec (.displayControl true false true) State.reset)).map (fun d => (d.d, d.c, d.b)) =
    some (some true, some false, some true) := by decide
theorem test_functionSet : (devAfter (exec (.functionSet true true false) State.reset)).map (fun d => (d.dl, d.n, d.f)) =
    some (some true, some true, some false) := by decide
theorem test_setCgram : (devAfter (exec (.setCgram 0x3F) State.reset)).map (fun d => (d.sel, d.ac)) = some (some .cg, some 0x3F) := by decide
theorem test_setDdram : (devAfter (exec (.setDdram 0x7F) State.reset)).map (fun d => (d.sel, d.ac)) = some (some .dd, some 0x7F) := by decide
-- Table 2.8: a write at 0 with decrement leaves the counter unknown.
theorem test_data_decrements_below_zero : (devAfter (exec (.dataByte 0x41) (before (device false .dd 0) []))).map
    (fun d => (Memory.read d.ddram 0, d.ac)) = some (some 0x41, none) := by decide
-- Table 2.8: CGRAM takes 0x1F and forgets 0x20.
theorem test_data_cgram_width : (devAfter (exec (.dataByte 0x1F) (before (device true .cg 0) []))).map (fun d => (Memory.read d.cgram 0, d.ac)) = some (some 0x1F, some 1) ∧
    (devAfter (exec (.dataByte 0x20) (before { device true .cg 0 with cgram := [(0, 7)] } []))).map (fun d => (Memory.read d.cgram 0, d.ac)) = some (none, some 1) := by decide
-- Table 2.8: 0x28 is outside the two-line range.
theorem test_data_outside : devAfter (exec (.dataByte 0x42) (before (device true .dd 0x28) [])) = some Dev.unknown := by decide
-- W10.
theorem test_valid_addresses : validDd (some false) 0x4F = true ∧ validDd (some false) 0x50 = false ∧ validDd (some true) 0x27 = true ∧
    validDd (some true) 0x28 = false ∧ validDd (some true) 0x3F = false ∧ validDd (some true) 0x40 = true ∧ validDd (some true) 0x67 = true ∧
    validDd (some true) 0x68 = false := by decide

/-! ## Requests, by the vectors of tables 2.1 to 2.7 -/

-- W7 with its 200 ms tail.
theorem test_init_trace : (after (exec .reqInit (idle [.ack, .ack, .ack, .ack]))).map State.trace = some
    [.attempt 0x3C 0x00 [0x38] .ack, .settle .settle, .attempt 0x3C 0x00 [0x0C] .ack, .settle .settle,
     .attempt 0x3C 0x00 [0x01] .ack, .settle .settle, .attempt 0x3C 0x00 [0x06] .ack, .settle .settle, .settle .initTail] := by decide
-- Table 2.7: INIT's last frame fails, no tail.
theorem test_init_fails_late : (after (exec .reqInit (idle [.ack, .ack, .ack, .noAck]))).map
    (fun t => (t.trace.getLast?, t.result, t.dev)) = some (some (.settle .settle), some (.transportError .noAck 3), Dev.unknown) := by decide
theorem test_clrdisp : served (exec .reqClrdisp (idle [.ack])) = some ([(0x00, [0x01], .ack)], some .ok) := by decide
theorem test_home_request : served (exec .reqHome (idle [.ack])) = some ([(0x00, [0x02], .ack)], some .ok) := by decide
-- W2.
theorem test_entry_left : served (exec (.reqEntry .left .off) (idle [.ack])) = some ([(0x00, [0x06], .ack)], some .ok) := by decide
theorem test_entry_right : served (exec (.reqEntry .right .on) (idle [.ack])) = some ([(0x00, [0x05], .ack)], some .ok) := by decide
theorem test_dispon : served (exec (.reqDispon true false) (idle [.ack])) = some ([(0x00, [0x0E], .ack)], some .ok) := by decide
theorem test_dispoff : served (exec .reqDispoff (idle [.ack])) = some ([(0x00, [0x08], .ack)], some .ok) := by decide
theorem test_setcg : served (exec (.reqSetcg 0x15) (idle [.ack])) = some ([(0x00, [0x55], .ack)], some .ok) := by decide
theorem test_setdd : served (exec (.reqSetdd 0x68) (idle [.ack])) = some ([(0x00, [0xE8], .ack)], some .ok) := by decide
-- W3.
theorem test_wrdata_masks : served (exec (.reqWrdata 0x1FF) (idle [.ack])) = some ([(0x40, [0xFF], .ack)], some .ok) := by decide
-- W5, and table 2.3's empty text.
theorem test_dline_hello : served (exec (.reqDline 2 [0x48, 0x45, 0x4C, 0x4C, 0x4F]) (idle [.ack, .ack])) =
    some ([(0x00, [0xC0], .ack), (0x40, [0x48, 0x45, 0x4C, 0x4C, 0x4F], .ack)], some .ok) := by decide
theorem test_dline_empty : served (exec (.reqDline 1 []) (idle [.ack, .ack])) = some ([(0x00, [0x80], .ack), (0x40, [], .ack)], some .ok) := by decide
-- W6.
theorem test_dline_33_bytes : served (exec (.reqDline 1 (List.replicate 33 0x41)) (idle [.ack, .ack])) = some ([], some (.inputTooLong 33)) := by decide
-- W4, by the first two slots.
theorem test_ldglyph_frames : ((served (exec (.reqLdglyph tableW4) (idle acks72))).map fun r => (r.1.take 10, r.1.length, r.2)) =
    some ([(0x00, [0x40], .ack), (0x40, [0x11], .ack), (0x40, [0x11], .ack), (0x40, [0x11], .ack), (0x40, [0x11], .ack), (0x40, [0x11], .ack),
      (0x40, [0x11], .ack), (0x40, [0x11], .ack), (0x40, [0x1F], .ack), (0x00, [0x48], .ack)], 72, some .ok) := by decide +kernel
-- Table 2.4: glyph 7 row 7 of 6 bits.
theorem test_ldglyph_wide_row : served (exec (.reqLdglyph (List.replicate 7 glyphW4 ++ [[0, 0, 0, 0, 0, 0, 0, 0x20]])) (idle acks72)) =
    some ([], some .invalidGlyphData) := by decide
theorem test_illegal : served (exec (.reqIllegal 0x6001) (idle [.ack])) = some ([], some (.illegalRequest 0x6001)) := by decide
-- P5: CLEAR is CLRDISP and then HOME; a failed CLRDISP sends no HOME.
theorem test_clear_pseudo : served (runPseudo .clear (idle [.ack, .ack])) =
    some ([(0x00, [0x01], .ack), (0x00, [0x02], .ack)], some .ok) := by decide
theorem test_clear_pseudo_fails :
    served (runPseudo .clear (idle [.busUnavailable, .ack])) = some ([(0x00, [0x01], .busUnavailable)], some (.transportError .busUnavailable 0)) := by decide
-- R83: a HOME that fails after an OK CLRDISP gives CLEAR its result.
theorem test_clear_pseudo_home_fails : served (runPseudo .clear (idle [.ack, .noAck])) =
    some ([(0x00, [0x01], .ack), (0x00, [0x02], .noAck)], some (.transportError .noAck 0)) := by decide
-- R105: the codes.
theorem test_result_codes : resultCode .ok = 0 ∧ resultCode (.illegalRequest 0) = 5 ∧ causeCode .oversize = 3 := by decide

/-! ## The assembler (R82) -/

theorem test_assemble_list : assemble "DLINE 1, [0x00, 0x01]".toList = some (.request ⟨0xA001, .bytes [0x00, 0x01]⟩) := by decide +kernel
theorem test_assemble_refuses : assemble "DISPON 2, 0".toList = none ∧ assemble "SETDD 128".toList = none ∧ assemble "NOP".toList = none := by decide +kernel
-- Log entry 30: the forms of empty lists.
theorem test_assemble_empty : assemble "DLINE 1, []".toList = some (.request ⟨0xA001, .bytes []⟩) ∧
    glyphTable [.openBrace, .closeBrace] = some [] ∧ glyphTable [.openBrace, .semi, .closeBrace] = none := by decide +kernel

/-! ## Witnesses: states and operands that meet the hypotheses of the statements, at the edges of their ranges -/

theorem witness_DecodeOfEncode : wellFormed (.reqWrdata 4095) = true ∧ wellFormed (.reqDline 255 [0xFF]) = true := by decide
theorem witness_InstructionBytesRoundTrip : decodeIw 0x38 = some (.funcSet true true false) ∧ (idle [.ack]).busy = false ∧
    (idle [.ack]).draws = .ack :: [] := by decide
theorem witness_ReservedBytesUndefineDevice : legalCfg (onWire .ir [.byte 0x3F]).cfg = true ∧ (onWire .ir [.byte 0x3F]).rx = .ir ∧
    (onWire .ir [.byte 0x3F]).wire = .byte 0x3F :: [] ∧ decodeIw 0x3F = none := by decide
theorem witness_EmittedInstructionBytes : emittable 0x38 = true ∧ (idle [.ack, .ack, .ack, .ack]).busy = false ∧
    ((after (exec (.ofRequest .init) (idle [.ack, .ack, .ack, .ack]))).map fun t =>
      t.trace.contains (.attempt 0x3C 0x00 [0x38] .ack)) = some true ∧ emittable 0x09 = false ∧ (0x0B#8).toNat ≤ 0x0B := by decide
-- An attempt that is not acknowledged emits its byte all the same.
theorem witness_EmittedInstructionBytes_failed : ((after (exec (.ofRequest .setDisplayOff) (idle [.noAck]))).map fun t =>
    t.trace.contains (.attempt 0x3C 0x00 [0x08] .noAck)) = some true ∧ emittable 0x08 = true := by decide
theorem witness_LineTableHoldsSetDdramBytes : lineBase 4 = some 0xD4 ∧ lineBase 0 = none ∧ lineBase 5 = none := by decide
theorem witness_TransactionWireOrder : (wireBits 0x80)[0]? = some true ∧ (wireBits 0x01)[7]? = some true ∧
    wireBytes 0x3C ⟨0x00, [0x38]⟩ = [0x78, 0x00, 0x38] := by decide
theorem witness_StepRunsTheDecodedInstruction_wire : legalCfg (onWire .dr [.byte 0x41]).cfg = true ∧ (onWire .dr [.byte 0x41]).wire = .byte 0x41 :: [] ∧
    decode (.wire (onWire .dr [.byte 0x41]).rx 0x41) = .instr (.dataByte 0x41) := by decide
theorem witness_StepRunsTheDecodedInstruction_port : let s := waiting ⟨0x2000, .absent⟩ [.ack]
    legalCfg s.cfg = true ∧ s.wire = [] ∧ s.stuck = false ∧ s.busy = false ∧ s.port = ⟨0x2000, .absent⟩ :: [] ∧
      decode (.port ⟨0x2000, .absent⟩) = .instr .reqClrdisp := by decide
theorem witness_StepWithoutInstruction_stop : legalCfg (onWire .ir [.stop]).cfg = true ∧ (onWire .ir [.stop]).wire = .stop :: [] := by decide
theorem witness_StepWithoutInstruction_busy : let s : State := { idle [.ack] with busy := true, req := some .returnHome, plan := [⟨0x00, [0x02]⟩] }
    legalCfg s.cfg = true ∧ s.wire = [] ∧ s.stuck = false ∧ s.busy = true ∧ (after (step s)).map State.result = some (some .ok) := by decide
theorem witness_StepWithoutInstruction_idle : legalCfg State.reset.cfg = true ∧ State.reset.wire = [] ∧ State.reset.stuck = false ∧
    State.reset.busy = false ∧ State.reset.port = [] := by decide
theorem witness_IllegalConfigurationRefused : (0x3B#7).toNat < 0x3C ∧ 0x3F < (0x40#7).toNat ∧ 0x3C ≤ (0x3C#7).toNat ∧ (0x3F#7).toNat ≤ 0x3F ∧
    0x3F < ({ State.reset with cfg := ⟨⟨0⟩, 0x40⟩ } : State).cfg.slave.toNat := by decide
theorem witness_DataByteIntoCgram : (before (device true .cg 63) []).dev.ac = some 63 ∧ (before (device true .cg 63) []).dev.sel = some .cg ∧ 63 ≤ 63 := by decide
theorem witness_DataByteIntoDdram_two_lines : let s := before (device true .dd 0x67) []
    s.dev.ac = some 0x67 ∧ s.dev.sel = some .dd ∧ s.dev.n = some true ∧ 0x40 ≤ 0x67 ∧ 0x67 ≤ 0x67 := by decide
theorem witness_DataByteIntoDdram_one_line : let s := before { device true .dd 0x4F with n := some false } []
    s.dev.ac = some 0x4F ∧ s.dev.sel = some .dd ∧ s.dev.n = some false ∧ 0x4F ≤ 0x4F := by decide
theorem witness_DataByteOutsideUndefines : State.reset.dev.ac = none ∧ State.reset.dev.sel = none ∧
    (device true .cg 64).ac = some 64 ∧ (device true .cg 64).sel = some .cg ∧ (device true .dd 0x28).n = some true ∧
    (device true .dd 0x68).ac = some 0x68 ∧ { device true .dd 0x50 with n := some false }.n = some false ∧
    { device true .dd 0 with n := none }.n = none := by decide
theorem witness_ByteByByteEqualsWholeFrame : let s := onWire .frameStart [.byte 0x40, .byte 0x41, .byte 0x42, .stop]
    let frame : Frame := ⟨0x40, [0x41, 0x42]⟩
    legalCfg s.cfg = true ∧ s.rx = .frameStart ∧ s.wire = .byte frame.sel :: (frame.payload.map .byte ++ [.stop]) := by decide
theorem witness_PlannedRequestCompletes : planOf .clearDisplay = some ([⟨0x00, [0x01]⟩], none) ∧ (idle [.ack]).busy = false ∧
    (idle [.ack]).draws = List.replicate 1 .ack ++ [] := by decide
theorem witness_InitCompletes : (idle [.ack, .ack, .ack, .ack]).busy = false ∧
    (idle [.ack, .ack, .ack, .ack]).draws = .ack :: .ack :: .ack :: .ack :: [] := by decide
/-- For the statements about requests of one frame: CLRDISP, HOME, ENTRY, DISPON, DISPOFF, SETCG, SETDD, WRDATA. -/
theorem witness_one_frame : (idle [.ack]).busy = false ∧ (idle [.ack]).draws = .ack :: [] := by decide
theorem witness_DlineCompletes : (idle [.ack, .ack]).busy = false ∧ (idle [.ack, .ack]).draws = .ack :: .ack :: [] ∧
    (List.replicate 32 0x41#8).length ≤ 32 ∧ (4, 0xD4#8, 0x54) ∈ [(1, 0x80#8, 0x00), (2, 0xC0#8, 0x40), (3, 0x94#8, 0x14), (4, 0xD4#8, 0x54)] := by decide
theorem witness_DlineFillsItsCells : let s := before (device true .dd 0) [.ack, .ack]
    s.busy = false ∧ s.draws = .ack :: .ack :: [] ∧ s.dev.n = some true ∧ s.dev.id = some true ∧
      (4, 0x54, 20) ∈ [(1, 0x00, 32), (2, 0x40, 32), (3, 0x14, 20), (4, 0x54, 20)] ∧ (List.replicate 20 0x41#8).length ≤ 20 := by decide
theorem witness_DlineOverrunUndefines : let s := before (device true .dd 0) [.ack, .ack]
    s.busy = false ∧ s.draws = .ack :: .ack :: [] ∧ s.dev.n = some true ∧ s.dev.id = some true ∧ 20 < (List.replicate 21 0x41#8).length ∧
      (List.replicate 21 0x41#8).length ≤ 32 ∧ devAfter (exec (.reqDline 3 (List.replicate 21 0x41#8)) s) = some Dev.unknown := by decide
theorem tableW4_ok : glyphTableOk tableW4 := by unfold glyphTableOk; decide
theorem witness_LdglyphCompletes : (idle acks72).busy = false ∧ glyphTableOk tableW4 ∧ (idle acks72).draws = List.replicate 72 .ack ++ [] :=
  ⟨rfl, tableW4_ok, rfl⟩
theorem witness_LdglyphFillsCgram : let s := before (device true .dd 0) acks72
    s.busy = false ∧ glyphTableOk tableW4 ∧ s.dev.id = some true ∧ s.draws = List.replicate 72 .ack ++ [] := ⟨rfl, tableW4_ok, rfl, rfl⟩
theorem witness_LdglyphDecrementUndefines : let s := before (device false .dd 0) acks72
    s.busy = false ∧ glyphTableOk tableW4 ∧ s.dev.id = some false ∧ s.draws = List.replicate 72 .ack ++ [] := ⟨rfl, tableW4_ok, rfl, rfl⟩
theorem witness_PseudoInstructionsExpand : (idle [.ack, .ack]).busy = false ∧ (idle [.ack, .ack]).stuck = false ∧
    (idle [.ack, .ack]).draws = .ack :: .ack :: [] := by decide
theorem witness_PseudoInstructionsExpand_failed : (idle [.busUnavailable]).busy = false ∧ (idle [.busUnavailable]).stuck = false ∧
    (Draw.busUnavailable, Cause.busUnavailable, SendOutcome.busUnavailable) ∈ [(Draw.busUnavailable, Cause.busUnavailable, SendOutcome.busUnavailable),
      (Draw.noAck, Cause.noAck, SendOutcome.noAck)] ∧ (idle [.busUnavailable]).draws = .busUnavailable :: [] ∧
    (idle [.ack, .busUnavailable]).busy = false ∧ (idle [.ack, .busUnavailable]).stuck = false ∧
    (idle [.ack, .busUnavailable]).draws = .ack :: .busUnavailable :: [] := by decide
theorem witness_PseudoInstructionsExpand_stalled : (idle [.stall]).busy = false ∧ (idle [.stall]).stuck = false ∧ (idle [.stall]).draws = .stall :: [] ∧
    (idle [.ack, .stall]).busy = false ∧ (idle [.ack, .stall]).stuck = false ∧ (idle [.ack, .stall]).draws = .ack :: .stall :: [] := by decide
theorem witness_DlineRefusedBeforeAnyAttempt : (idle []).busy = false ∧ (0 < 1 ∨ 4 < 0) ∧ (5 < 1 ∨ 4 < 5) ∧ (List.replicate 32 0x41#8).length ≤ 32 ∧
    32 < (List.replicate 33 0x41#8).length := by decide
theorem witness_MalformedGlyphTableRefused : (idle []).busy = false ∧ ¬ glyphTableOk [] ∧ ¬ glyphTableOk (List.replicate 9 glyphW4) ∧
    ¬ glyphTableOk (List.replicate 8 [0, 0, 0, 0, 0, 0, 0]) ∧ ¬ glyphTableOk (List.replicate 8 [0, 0, 0, 0, 0, 0, 0, 0x20]) := by
  unfold glyphTableOk; decide
theorem witness_IllegalRequestRefused : (idle []).busy = false := by decide
theorem witness_FailedAttemptEndsRequest : planOf .returnHome = some ([⟨0x00, [0x02]⟩], none) ∧ (idle [.noAck]).busy = false ∧ 0 < 1 ∧
    (Draw.noAck, Cause.noAck, SendOutcome.noAck) ∈ [(Draw.busUnavailable, Cause.busUnavailable, SendOutcome.busUnavailable),
      (Draw.noAck, Cause.noAck, SendOutcome.noAck)] ∧ (idle [.noAck]).draws = List.replicate 0 .ack ++ .noAck :: [] := by decide
-- Table 2.7: BusUnavailable at the second frame of a DLINE.
theorem witness_FailedAttemptEndsRequest_second : served (exec (.reqDline 2 [0x48]) (idle [.ack, .busUnavailable])) =
    some ([(0x00, [0xC0], .ack), (0x40, [0x48], .busUnavailable)], some (.transportError .busUnavailable 1)) := by decide
theorem witness_StalledTransportSticks : let s := idle [.ack, .stall]
    (planOf .init).map (fun p => p.1.length) = some 4 ∧ s.busy = false ∧ 1 < 4 ∧ s.draws = List.replicate 1 .ack ++ .stall :: [] ∧
      legalCfg s.cfg = true ∧ s.wire = [] := by decide
theorem witness_OversizedFrameFails : 32 < (⟨0x40, List.replicate 33 0x41⟩ : Frame).payload.length := by decide
theorem witness_BusyBlockKeepsRequestWaiting : ({ State.reset with busy := true } : State).busy = true ∧
    wellFormed (.ofRequest (.writeRamData 4095)) = true := by decide
/-- For the statements about any request of an idle block: one result, the frame, independence of earlier results. -/
theorem witness_idle_block : (idle []).busy = false ∧ (idle []).stuck = false := by decide
theorem witness_StepOnlyExtendsRecord : ∃ t, step (waiting ⟨0x1001, .absent⟩ []) = .next t ∧ t.results = [.illegalRequest 0x1001] := ⟨_, rfl, rfl⟩
theorem witness_StepKeepsSoundness : (waiting ⟨0x2000, .absent⟩ [.ack]).Inv ∧ ∃ t, step (waiting ⟨0x2000, .absent⟩ [.ack]) = .next t ∧ t.result = some .ok := by
  refine ⟨⟨⟨by decide, by decide, by decide, by decide, by decide, by decide, by decide⟩, ⟨rfl, rfl, fun h => ?_⟩, ⟨by decide, by decide⟩,
    ⟨fun a h => ?_, by decide, by decide, fun a b h => ?_⟩, fun h => ?_⟩, _, rfl, rfl⟩ <;> cases h
theorem witness_OnlyInitRecoversDevice : (waiting ⟨0x1000, .absent⟩ [.ack, .ack, .ack, .ack]).dev.undef = true ∧
    (devAfter (step (waiting ⟨0x1000, .absent⟩ [.ack, .ack, .ack, .ack]))).map Dev.undef = some false := by decide
theorem witness_StepsServeRequestsInOrder : let items : List PortItem := [⟨0x3000, .absent⟩, ⟨0x4004, .absent⟩]
    let s : State := { idle [.noAck] with port := items }
    legalCfg s.cfg = true ∧ s.wire = [] ∧ s.busy = false ∧ s.stuck = false ∧ s.port = items ∧ (serve items { s with port := [] }).stuck = false := by decide

end Sys2Proof.Machine.Tests
end

section
/-! SUPPORT. The machine as a whole: the record of a run only grows (R10), the steps of an idle block serve its port in
order (R18), and the minimums of the settle waits (R140). -/

namespace Sys2Proof.Machine

/-! ## The record: what an attempt, a request and a step add to it -/

/-- From `s` to `t` the trace has grown, CFG and the results standing: what an attempt may do (R10, R13, R32). -/
structure GrowsTrace (s t : State) : Prop where
  cfg     : t.cfg = s.cfg
  trace   : s.trace <+: t.trace
  results : t.results = s.results

/-- From `s` to `t` the trace has grown and at most one result has come, CFG standing: what a step may do (R10, R13). -/
structure GrowsRecord (s t : State) : Prop where
  cfg     : t.cfg = s.cfg
  trace   : s.trace <+: t.trace
  results : ∃ more, t.results = s.results ++ more ∧ more.length ≤ 1

theorem GrowsTrace.refl (s : State) : GrowsTrace s s := ⟨rfl, List.prefix_rfl, rfl⟩

theorem GrowsTrace.trans {s t u : State} (h₁ : GrowsTrace s t) (h₂ : GrowsTrace t u) : GrowsTrace s u :=
  ⟨h₂.cfg.trans h₁.cfg, h₁.trace.trans h₂.trace, h₂.results.trans h₁.results⟩

theorem GrowsTrace.growsRecord {s t : State} (h : GrowsTrace s t) : GrowsRecord s t :=
  ⟨h.cfg, h.trace, [], by simp [h.results], by simp⟩

theorem GrowsRecord.after {s t u : State} (h₂ : GrowsRecord t u) (h₁ : GrowsTrace s t) : GrowsRecord s u :=
  ⟨h₂.cfg.trans h₁.cfg, h₁.trace.trans h₂.trace, h₁.results ▸ h₂.results⟩

theorem growsRecord_raise (e : Result) (s : State) : GrowsRecord s (raise e s) :=
  ⟨rfl, List.prefix_rfl, [e], rfl, Nat.le_refl 1⟩

theorem growsRecord_finish (s : State) : GrowsRecord s (finish s) := by
  rw [finish_eq]
  exact ⟨rfl, List.prefix_append _ _, [.ok], rfl, Nat.le_refl 1⟩

/-- The state an attempt leads to, however it ended. -/
def Sent.state : Sent → State
  | .acked s | .failed _ s | .stalled s => s

theorem growsTrace_send (frame : Frame) (s : State) : GrowsTrace s (send frame s).state := by
  obtain ⟨_, _, ⟨h, -⟩ | ⟨h, -⟩ | ⟨h, -⟩ | ⟨h, -⟩ | ⟨h, -⟩⟩ := send_cases frame s <;> rw [h]
  case inr.inr.inr.inr => exact ⟨rfl, List.prefix_rfl, rfl⟩
  all_goals exact ⟨rfl, List.prefix_append _ _, rfl⟩

/-- The loop of R19 delivers at most one result, at its end. -/
theorem growsRecord_runFrames (frames : List Frame) (s : State) : GrowsRecord s (runFrames frames s) := by
  have hsend : ∀ {frame : Frame} {u : State} {sent : Sent}, GrowsTrace s u → send frame u = sent → GrowsTrace s sent.state :=
    fun hu h => h ▸ hu.trans (growsTrace_send _ _)
  refine runFrames_induct (P := fun _ u => GrowsTrace s u) (Q := GrowsRecord s) ?_ ?_ ?_ ?_ frames s (.refl s)
  · exact fun u hu => (growsRecord_finish u).after hu
  · exact fun _ _ _ _ hu h => (hsend hu h).trans ⟨rfl, List.prefix_rfl, rfl⟩
  · exact fun _ _ _ _ _ hu h => (growsRecord_raise _ _).after (hsend hu h)
  · exact fun _ _ _ _ hu h => (hsend hu h).growsRecord

theorem send_stalled_stuck {frame : Frame} {s t : State} (h : send frame s = .stalled t) : t.stuck = true := by
  obtain ⟨_, _, ⟨h', -⟩ | ⟨h', -⟩ | ⟨h', -⟩ | ⟨h', -⟩ | ⟨h', -⟩⟩ := send_cases frame s <;> cases h'.symm.trans h
  rfl

/-- The loop of R19 ends with BUSY 1 only in a stall. -/
theorem runFrames_busy_of_not_stuck (frames : List Frame) (s : State) :
    (runFrames frames s).stuck = false → (runFrames frames s).busy = false := by
  refine runFrames_induct (P := fun _ _ => True) (Q := fun u => u.stuck = false → u.busy = false)
    ?_ ?_ ?_ ?_ frames s trivial
  · exact fun u _ _ => by rw [finish_eq]
  · exact fun _ _ _ _ _ _ => trivial
  · exact fun _ _ _ u cause _ _ _ => raise_busy (.transportError cause u.pc) u
  · exact fun _ _ _ _ _ h hstuck => Bool.noConfusion ((send_stalled_stuck h).symm.trans hstuck)

theorem runFrames_wire (frames : List Frame) (s : State) : (runFrames frames s).wire = s.wire := by
  have hfixed := fixedPart_runFrames frames s
  simp only [fixedPart, Prod.mk.injEq] at hfixed
  obtain ⟨-, -, -, -, -, -, -, hwire, -⟩ := hfixed
  exact hwire

/-- What a request does in an idle block: it answers a state, the record grown by at most one result, with the bus as
it was, and idle again unless the transport stalled (R19, R116). -/
theorem exec_request_idle (req : Request) (s : State) (hb : s.busy = false) :
    ∃ t, exec (.ofRequest req) s = .next t ∧ GrowsRecord s t ∧ t.wire = s.wire ∧ (t.stuck = false → t.busy = false) := by
  obtain ⟨-, e, h⟩ | ⟨plan, tail, -, h⟩ := exec_request_cases req s hb
  · exact ⟨_, h, ⟨rfl, List.prefix_rfl, [e], rfl, Nat.le_refl 1⟩, rfl, fun _ => rfl⟩
  · rw [runPlan_eq, buffered_cases] at h
    exact ⟨_, h, (growsRecord_runFrames plan _).after ⟨rfl, List.prefix_rfl, rfl⟩, runFrames_wire plan _,
      runFrames_busy_of_not_stuck plan _⟩

/-- An effect on the device's side of the bus leaves the record alone. -/
theorem WireEffect.growsTrace {s t : State} (h : WireEffect s t) : GrowsTrace s t := by
  obtain ⟨_, rfl⟩ | ⟨_, rfl⟩ | ⟨_, rfl⟩ | ⟨_, rfl⟩ := h <;> exact ⟨rfl, List.prefix_rfl, rfl⟩

theorem growsRecord_step {s t : State} (h : step s = .next t) : GrowsRecord s t := by
  obtain ⟨-, ⟨_, _, -, hwire⟩ | ⟨-, -, -, rfl⟩ | ⟨-, -, -, -, rfl⟩ | ⟨item, rest, -, -, hb, -, hexec⟩⟩ := step_cases h
  · exact hwire.growsTrace.growsRecord.after ⟨rfl, List.prefix_rfl, rfl⟩
  · exact growsRecord_runFrames _ _
  · exact (GrowsTrace.refl t).growsRecord
  · obtain ⟨u, hu, hgrows, -, -⟩ := exec_request_idle (decodeRequest item) { s with port := rest } hb
    obtain rfl : u = t := by simpa [hu] using hexec
    exact hgrows.after ⟨rfl, List.prefix_rfl, rfl⟩

/-- Settles O47: everything a step can have done, by `step_cases`, only adds to the record. -/
theorem stepOnlyExtendsRecord : Obligations.StepOnlyExtendsRecord := by
  intro s t h
  obtain ⟨hcfg, ⟨new, hnew⟩, hresults⟩ := growsRecord_step h
  exact ⟨hcfg, ⟨new, hnew.symm⟩, hresults⟩

/-! ## The port: a request that is being processed neither reads nor writes it -/

/-- A state with other requests waiting. -/
def State.withPort (port : List PortItem) (s : State) : State := { s with port := port }

theorem State.withPort_of_port_eq {port : List PortItem} {s : State} (h : s.port = port) : s.withPort port = s := by
  subst h
  rfl

/-- A change of the state that neither reads nor writes the port. -/
def PortBlind (f : State → State) : Prop := ∀ port s, f (s.withPort port) = (f s).withPort port

/-- The same attempt in a state changed by `f`. -/
def Sent.map (f : State → State) : Sent → Sent
  | .acked s => .acked (f s)
  | .failed cause s => .failed cause (f s)
  | .stalled s => .stalled (f s)

theorem PortBlind.port_eq {f : State → State} (hf : PortBlind f) (s : State) : (f s).port = s.port := by
  simpa [State.withPort] using congrArg State.port (hf s.port s)

theorem nextDraw_withPort (port : List PortItem) (s : State) :
    nextDraw (s.withPort port) = ((nextDraw s).1, (nextDraw s).2.withPort port) := by
  unfold nextDraw
  cases h : s.draws <;> simp [State.withPort, h]

theorem send_withPort (frame : Frame) (port : List PortItem) (s : State) :
    send frame (s.withPort port) = (send frame s).map (State.withPort port) := by
  have hdraw := nextDraw_withPort port { s with session := true }
  simp only [State.withPort] at hdraw
  simp only [send, State.withPort]
  split
  · rfl
  · rw [hdraw]
    obtain ⟨answer, u⟩ := nextDraw { s with session := true }
    cases answer <;> rfl

theorem finish_portBlind : PortBlind finish := by
  intro port s
  rw [finish_eq, finish_eq]
  rfl

theorem raise_portBlind (e : Result) : PortBlind (raise e) := fun _ _ => rfl

theorem runFrames_portBlind (frames : List Frame) : PortBlind (runFrames frames) := by
  intro port s
  induction frames generalizing s with
  | nil => exact finish_portBlind port s
  | cons frame rest ih =>
    rw [runFrames, runFrames, send_withPort]
    cases send frame s with
    | acked u => exact ih { u with pc := u.pc + 1 }
    | failed cause u => rfl
    | stalled u => rfl

theorem runPlan_portBlind (plan : List Frame) (tail : Option Duration) : PortBlind (runPlan plan tail) := by
  intro port s
  rw [runPlan_eq, runPlan_eq]
  exact runFrames_portBlind plan port { s with plan := plan, tail := tail, pc := 0 }

theorem runLine_portBlind (line : Nat) (text : List Byte) : PortBlind (runLine line text) := by
  intro port s
  unfold runLine
  split
  · split <;> rfl
  · split
    · rfl
    · exact runPlan_portBlind _ none port { s with lineBuf := text }

theorem runGlyphs_portBlind (table : List (List Nat)) : PortBlind (runGlyphs table) := by
  intro port s
  unfold runGlyphs
  split
  · exact runPlan_portBlind _ none port { s with glyphBuf := packRows table }
  · rfl

/-- Every request is an acceptance, and what follows the acceptance does not concern the port (R19, R20). -/
theorem exec_request_eq_accept (req : Request) :
    ∃ body, PortBlind body ∧ ∀ s, exec (.ofRequest req) s = .next (accept req body s) := by
  cases req with
  | displayLine line text => exact ⟨_, runLine_portBlind line text, fun _ => rfl⟩
  | loadGlyphs table => exact ⟨_, runGlyphs_portBlind table, fun _ => rfl⟩
  | illegal w => exact ⟨_, raise_portBlind (.illegalRequest w), fun _ => rfl⟩
  | _ => exact ⟨_, runPlan_portBlind _ _, fun _ => rfl⟩

/-- An idle block processes a request alike whatever waits behind it, and leaves that waiting (R18, R20). -/
theorem exec_request_withPort {req : Request} {s t : State} (port : List PortItem) (hb : s.busy = false)
    (h : exec (.ofRequest req) s = .next t) :
    exec (.ofRequest req) (s.withPort port) = .next (t.withPort port) ∧ t.port = s.port := by
  obtain ⟨body, hbody, hexec⟩ := exec_request_eq_accept req
  rw [hexec, accept_idle hb, Host.Outcome.next.injEq] at h
  subst h
  rw [hexec, accept_idle (s := s.withPort port) hb]
  exact ⟨congrArg _ (hbody port { s with busy := true, req := some req }), hbody.port_eq _⟩

/-! ## The steps of an idle block and the run of R10 -/

/-- A step of an idle block with nothing on the bus runs the first request of its port (R18, R43). -/
theorem step_request {s : State} {item : PortItem} {rest : List PortItem} (hcfg : legalCfg s.cfg = true)
    (hwire : s.wire = []) (hbusy : s.busy = false) (hstuck : s.stuck = false) (hport : s.port = item :: rest) :
    step s = exec (.ofRequest (decodeRequest item)) (s.withPort rest) := by
  simp [step, hcfg, nextWork, hwire, blockWork, hbusy, hstuck, takePort, hport, State.withPort]

theorem core_run_succ {s t : State} (k : Nat) (h : step s = .next t) : Sys2Proof.core.run (k + 1) s = Sys2Proof.core.run k t := by
  simp only [Host.Core.run, Sys2Proof.core, h]

/-- Where the service of a list of requests does not stall, neither does its first request. -/
theorem serve_cons_of_not_stuck {item : PortItem} {rest : List PortItem} {s t : State}
    (h : exec (.ofRequest (decodeRequest item)) s = .next t) (hserve : (serve (item :: rest) s).stuck = false) :
    t.stuck = false ∧ serve (item :: rest) s = serve rest t := by
  simp only [serve, h] at hserve ⊢
  split at hserve
  · next hstuck => rw [hstuck] at hserve; cases hserve
  · next hstuck => exact ⟨Bool.eq_false_iff.2 hstuck, if_neg hstuck⟩

/-- Settles O53, by induction on the waiting requests: each step processes the first of them as `serve` does, which
sees an empty port, and leaves an idle block with the rest. -/
theorem stepsServeRequestsInOrder : Obligations.StepsServeRequestsInOrder := by
  intro items
  induction items with
  | nil =>
    intro s _ _ _ _ hport _
    exact congrArg Host.Outcome.next (State.withPort_of_port_eq hport).symm
  | cons item rest ih =>
    intro s hcfg hwire hbusy hstuck hport hserve
    obtain ⟨t, ht, hgrows, htwire, htbusy⟩ := exec_request_idle (decodeRequest item) (s.withPort []) hbusy
    obtain ⟨htstuck, hrest⟩ := serve_cons_of_not_stuck ht hserve
    obtain ⟨hexec, htport⟩ := exec_request_withPort (s := s.withPort []) rest hbusy ht
    have hstep : step s = .next (t.withPort rest) := (step_request hcfg hwire hbusy hstuck hport).trans hexec
    have hback : (t.withPort rest).withPort [] = t := State.withPort_of_port_eq htport
    calc Sys2Proof.core.run (rest.length + 1) s
      _ = Sys2Proof.core.run rest.length (t.withPort rest) := core_run_succ _ hstep
      _ = .next (serve rest ((t.withPort rest).withPort [])) :=
        ih (t.withPort rest) ((congrArg legalCfg hgrows.cfg).trans hcfg) (htwire.trans hwire) (htbusy htstuck) htstuck rfl
          (show (serve rest ((t.withPort rest).withPort [])).stuck = false by rw [hback, ← hrest]; exact hserve)
      _ = .next (serve (item :: rest) (s.withPort [])) := by rw [hback, hrest]

/-! ## The settle waits -/

/-- Settles O13: T_SETTLE_US is 100 and a free number more, T_INIT_MS is R6's own value. -/
theorem settleMinimums : Obligations.SettleMinimums :=
  ⟨Nat.le_add_right 100 Config.settleExtraUs, Nat.le_refl 200000⟩

end Sys2Proof.Machine
end

section
/-! SUPPORT. The state along a step: how a plan ends by the answers of the transport (R19, R32), what a request leaves
unchanged, what the block never reads (R21, R22), and the invariant of the machine. -/

namespace Sys2Proof.Machine

/-! ## The step by what it works on -/

/-- What a step does with its work. -/
def runWork : Work → Host.Outcome State Fault Refusal
  | .run i s => exec i s
  | .advance s => .next s
  | .stalled => .fault .transportStalled

theorem step_eq_runWork {s : State} (hcfg : legalCfg s.cfg = true) : step s = runWork (nextWork s) := by
  rw [step, if_pos hcfg]
  cases nextWork s <;> rfl

section
variable {s : State}

theorem nextWork_wire {ev : BusEvent} {rest : List BusEvent} (h : s.wire = ev :: rest) :
    nextWork s = takeWire ev { s with wire := rest } := by simp only [nextWork, h]

theorem nextWork_block (h : s.wire = []) : nextWork s = blockWork s := by simp only [nextWork, h]

theorem blockWork_stuck (h : s.stuck = true) : blockWork s = .stalled := if_pos h

theorem blockWork_busy (hstuck : s.stuck = false) (hbusy : s.busy = true) : blockWork s = .advance (resume s) := by
  simp only [blockWork, hstuck, hbusy, if_true, Bool.false_eq_true, if_false]

theorem blockWork_idle (hstuck : s.stuck = false) (hbusy : s.busy = false) : blockWork s = takePort s := by
  simp only [blockWork, hstuck, hbusy, Bool.false_eq_true, if_false]

theorem takePort_nil (h : s.port = []) : takePort s = .advance s := by simp only [takePort, h]

theorem takePort_cons {item : PortItem} {rest : List PortItem} (h : s.port = item :: rest) :
    takePort s = .run (.ofRequest (decodeRequest item)) { s with port := rest } := by simp only [takePort, h]

theorem takeWire_instr {b : Byte} {i : Instr} (h : decodeWire s.rx b = .instr i) : takeWire (.byte b) s = .run i s := by
  simp only [takeWire, h]

theorem takeWire_reject {b : Byte} {why : Reject} (h : decodeWire s.rx b = .reject why) :
    takeWire (.byte b) s = .advance (takeRejected why s) := by simp only [takeWire, h]

end

/-- Settles O9: each of the two fetches hands its instruction to `exec`. -/
theorem stepRunsTheDecodedInstruction : Obligations.StepRunsTheDecodedInstruction := by
  refine ⟨fun s b rest i hcfg hwire hdecode => ?_, fun s item rest i hcfg hwire hstuck hbusy hport hdecode => ?_⟩
  · rw [step_eq_runWork hcfg, nextWork_wire hwire, takeWire_instr (s := { s with wire := rest }) hdecode]
    rfl
  · obtain rfl := Decoded.instr.inj hdecode
    exact step_request hcfg hwire hbusy hstuck hport

/-- Settles O10: the three kinds of work without an instruction; going on with a request does not concern the port. -/
theorem stepWithoutInstruction : Obligations.StepWithoutInstruction := by
  refine ⟨fun s rest hcfg hwire => ?_, fun s hcfg hwire hstuck hbusy => ⟨resume s, ?_, rfl, ?_⟩,
    fun s hcfg hwire hstuck hbusy hport => ?_⟩
  · rw [step_eq_runWork hcfg, nextWork_wire hwire]
    rfl
  · rw [step_eq_runWork hcfg, nextWork_block hwire, blockWork_busy hstuck hbusy]
    rfl
  · exact (runFrames_portBlind _).port_eq s
  · rw [step_eq_runWork hcfg, nextWork_block hwire, blockWork_idle hstuck hbusy, takePort_nil hport]
    rfl

/-- The four legal slave addresses are the range 0x3C to 0x3F (R13). -/
theorem slaveAddrs_contains_iff (slave : BitVec 7) :
    Config.slaveAddrs.contains slave = true ↔ 0x3C ≤ slave.toNat ∧ slave.toNat ≤ 0x3F := by
  revert slave
  decide

/-- Settles O11: by the range of the legal addresses. -/
theorem illegalConfigurationRefused : Obligations.IllegalConfigurationRefused := by
  have hillegal : ∀ slave : BitVec 7, slave.toNat < 0x3C ∨ 0x3F < slave.toNat →
      ¬ Config.slaveAddrs.contains slave = true := by
    intro slave h
    rw [slaveAddrs_contains_iff]
    omega
  exact ⟨fun _ slave h => if_neg (hillegal slave h),
    fun _ slave hlow hhigh => if_pos ((slaveAddrs_contains_iff slave).2 ⟨hlow, hhigh⟩),
    fun s h => if_neg (hillegal s.cfg.slave h)⟩

/-- Settles O12: the values of R24 stand in `State.constructed`, those of R28 in `Dev.unknown`, whose memories list no
cell. -/
theorem constructionState : Obligations.ConstructionState :=
  fun _ _ => ⟨rfl, rfl, rfl, rfl, rfl, rfl, rfl, rfl, rfl, rfl, rfl, rfl, rfl, rfl, rfl, rfl, rfl, rfl, rfl, rfl,
    Memory.read_nil, Memory.read_nil⟩

/-- Settles O14: each selector's meaning writes `rx` alone. -/
theorem selectorsPickRegister : Obligations.SelectorsPickRegister := fun _ => ⟨rfl, rfl⟩

/-! ## Acceptance: the buffer a request fills, and the refusals before any attempt -/

section
variable (req : Request) (s : State)

@[simp] theorem buffered_cfg : (buffered req s).cfg = s.cfg := by cases req <;> rfl
@[simp] theorem buffered_port : (buffered req s).port = s.port := by cases req <;> rfl
@[simp] theorem buffered_wire : (buffered req s).wire = s.wire := by cases req <;> rfl
@[simp] theorem buffered_rx : (buffered req s).rx = s.rx := by cases req <;> rfl
@[simp] theorem buffered_draws : (buffered req s).draws = s.draws := by cases req <;> rfl
@[simp] theorem buffered_req : (buffered req s).req = s.req := by cases req <;> rfl
@[simp] theorem buffered_session : (buffered req s).session = s.session := by cases req <;> rfl
@[simp] theorem buffered_stuck : (buffered req s).stuck = s.stuck := by cases req <;> rfl
@[simp] theorem buffered_result : (buffered req s).result = s.result := by cases req <;> rfl
@[simp] theorem buffered_results : (buffered req s).results = s.results := by cases req <;> rfl
@[simp] theorem buffered_trace : (buffered req s).trace = s.trace := by cases req <;> rfl
@[simp] theorem buffered_dev : (buffered req s).dev = s.dev := by cases req <;> rfl

/-- The buffer is filled alike before and after the acceptance (R19). -/
theorem buffered_accepted :
    buffered req { s with busy := true, req := some req } = { buffered req s with busy := true, req := some req } := by
  cases req <;> rfl

end

theorem buffered_lineBuf {req : Request} (h : ∀ line text, req ≠ .displayLine line text) (s : State) :
    (buffered req s).lineBuf = s.lineBuf := by
  cases req with
  | displayLine line text => exact absurd rfl (h line text)
  | _ => rfl

theorem buffered_glyphBuf {req : Request} (h : ∀ table, req ≠ .loadGlyphs table) (s : State) :
    (buffered req s).glyphBuf = s.glyphBuf := by
  cases req with
  | loadGlyphs table => exact absurd rfl (h table)
  | _ => rfl

/-- The result of a request that passes no validation (R95, R96, R101, R111). -/
def refusalOf : Request → Result
  | .displayLine line text =>
    if (lineBase line).isSome then .inputTooLong text.length
    else if 32 < text.length then lineError Config.errOrder line text
    else .invalidLine line
  | .loadGlyphs _ => .invalidGlyphData
  | .illegal w => .illegalRequest w
  | _ => .ok

/-- A DLINE on one of the four lines has a plan unless its text is too long (R95, R97). -/
theorem length_of_planOf_displayLine_eq_none {line : Nat} {text : List Byte} {base : Byte}
    (hp : planOf (.displayLine line text) = none) (hbase : lineBase line = some base) : 32 < text.length := by
  refine Nat.lt_of_not_le fun hlen => ?_
  unfold lineBase at hbase
  split at hbase <;> simp [planOf, hlen] at hp hbase

/-- A request without a plan is refused with the one error its checks give, whatever the state of the idle block. -/
theorem exec_refused {req : Request} {s : State} (hp : planOf req = none) (hb : s.busy = false) :
    exec (.ofRequest req) s = .next (refusedWith req (refusalOf req) s) := by
  cases req with
  | setEntryMode dir shift => cases dir <;> cases shift <;> cases hp
  | setDisplayOn cursorOn blinkOn => cases cursorOn <;> cases blinkOn <;> cases hp
  | displayLine line text =>
    refine congrArg Host.Outcome.next ((accept_idle hb).trans ?_)
    simp only [runLine, refusalOf]
    cases hbase : lineBase line with
    | none => by_cases hlen : 32 < text.length <;> simp only [hlen, if_true, if_false] <;> rfl
    | some base =>
      simp only [length_of_planOf_displayLine_eq_none hp hbase, if_true]
      rfl
  | loadGlyphs table =>
    have hbad : validGlyphs table = false := by
      rw [← Bool.not_eq_true, validGlyphs_iff]
      exact fun hok => Option.some_ne_none _ ((if_pos hok).symm.trans hp)
    refine congrArg Host.Outcome.next ((accept_idle hb).trans ?_)
    rw [runGlyphs, hbad]
    rfl
  | illegal w => exact congrArg Host.Outcome.next (accept_idle hb)
  | _ => cases hp

/-- The state in which an idle block begins the loop of R19 for a request that has a plan. -/
def accepted (req : Request) (plan : List Frame) (tail : Option Duration) (s : State) : State :=
  { buffered req s with busy := true, req := some req, plan := plan, tail := tail, pc := 0 }

/-- An idle block runs the plan of a request, its buffer filled (R19). -/
theorem exec_planned {req : Request} {plan : List Frame} {tail : Option Duration} {s : State}
    (hp : planOf req = some (plan, tail)) (hb : s.busy = false) :
    exec (.ofRequest req) s = .next (runFrames plan (accepted req plan tail s)) := by
  rw [exec_ofPlan req plan tail s hp hb, runPlan_eq, buffered_accepted]
  rfl

/-- Everything a request does in an idle block: it is refused before any attempt, or its plan runs. -/
theorem exec_request_idle_cases (req : Request) :
    (∀ s : State, s.busy = false → exec (.ofRequest req) s = .next (refusedWith req (refusalOf req) s)) ∨
      ∃ plan tail, planOf req = some (plan, tail) ∧
        ∀ s : State, s.busy = false → exec (.ofRequest req) s = .next (runFrames plan (accepted req plan tail s)) := by
  cases hp : planOf req with
  | none => exact .inl fun _ hb => exec_refused hp hb
  | some p => exact .inr ⟨p.1, p.2, rfl, fun _ hb => exec_planned hp hb⟩

/-! ## The invariant: what a plan, an attempt and the end of a request keep of it -/

theorem planOf_displayLine_length {line : Nat} {text : List Byte} {p : List Frame × Option Duration}
    (h : planOf (.displayLine line text) = some p) : text.length ≤ 32 := by
  simp only [planOf] at h
  split at h
  · assumption
  · cases h

theorem planOf_loadGlyphs_ok {table : List (List Nat)} {p : List Frame × Option Duration}
    (h : planOf (.loadGlyphs table) = some p) : glyphTableOk table := by
  simp only [planOf] at h
  split at h
  · assumption
  · cases h

/-- Only INIT has a tail, and it is its own (R84). -/
theorem planOf_tail {req : Request} {plan : List Frame} {tail : Option Duration} (h : planOf req = some (plan, tail)) :
    ∀ t, tail = some t → t = .initTail := by
  rintro t rfl
  cases req with
  | setEntryMode dir shift => cases dir <;> cases shift <;> cases h
  | setDisplayOn cursorOn blinkOn => cases cursorOn <;> cases blinkOn <;> cases h
  | displayLine line text =>
    simp only [planOf] at h
    split at h
    · split at h <;> cases h
    · cases h
  | loadGlyphs table =>
    simp only [planOf] at h
    split at h <;> cases h
  | _ => cases h <;> rfl

/-- The buffers keep their sizes under a request that passes its validation (R17, R98, R102). -/
theorem buffered_sizes {req : Request} {p : List Frame × Option Duration} {s : State} (hp : planOf req = some p)
    (hline : s.lineBuf.length ≤ 32) (hglyphs : s.glyphBuf.length = 8) (hrows : ∀ glyph ∈ s.glyphBuf, glyph.length = 8) :
    (buffered req s).lineBuf.length ≤ 32 ∧ (buffered req s).glyphBuf.length = 8 ∧
      ∀ glyph ∈ (buffered req s).glyphBuf, glyph.length = 8 := by
  cases req with
  | displayLine line text => exact ⟨planOf_displayLine_length hp, hglyphs, hrows⟩
  | loadGlyphs table =>
    obtain ⟨hlen, hok⟩ := planOf_loadGlyphs_ok hp
    refine ⟨hline, by simpa [buffered] using hlen, fun glyph hglyph => ?_⟩
    obtain ⟨rows, hmem, rfl⟩ := List.mem_map.1 hglyph
    simpa using (hok rows hmem).1
  | _ => exact ⟨hline, hglyphs, hrows⟩

theorem legalFrame_fits {frame : Frame} (h : legalFrame frame = true) : frame.payload.length ≤ 32 := by
  simp only [legalFrame, Bool.or_eq_true, Bool.and_eq_true, decide_eq_true_eq] at h
  omega

/-- An attempt of a legal frame leaves legal events (R32, R74). -/
theorem attemptEvents_legal {frame : Frame} {out : SendOutcome} (slave : BitVec 7) (hframe : legalFrame frame = true)
    (hout : out ≠ .oversize) : (attemptEvents slave frame out).all (legalEvent slave) = true := by
  simp [attemptEvents, legalEvent, hframe, hout]

/-- A record stays sound when what is added to it is. -/
theorem State.TraceSound.append {s t : State} {new : List Event} (h : s.TraceSound) (hcfg : t.cfg = s.cfg)
    (htrace : t.trace = s.trace ++ new) (hlegal : new.all (legalEvent s.cfg.slave) = true) (hspaced : spaced new = true) :
    t.TraceSound := by
  obtain ⟨hall, hsp⟩ := h
  rw [State.TraceSound, htrace, hcfg, List.all_append, hall, hlegal]
  exact ⟨rfl, spaced_append _ _ hsp hspaced⟩

theorem send_acked_inv {frame : Frame} {s t : State} (h : send frame s = .acked t) :
    ∃ rest count, t = attemptAcked frame { s with draws := rest, drawCount := count } := by
  obtain ⟨rest, count, ⟨h', -⟩ | ⟨h', -⟩ | ⟨h', -⟩ | ⟨h', -⟩ | ⟨h', -⟩⟩ := send_cases frame s <;> cases h'.symm.trans h
  exact ⟨rest, count, rfl⟩

theorem send_failed_inv {frame : Frame} {s t : State} {cause : Cause} (hfit : frame.payload.length ≤ 32)
    (h : send frame s = .failed cause t) :
    ∃ rest count out, out ≠ .oversize ∧ t = attemptFailed frame out { s with draws := rest, drawCount := count } := by
  obtain ⟨rest, count, ⟨h', -⟩ | ⟨h', hbig⟩ | ⟨h', -⟩ | ⟨h', -⟩ | ⟨h', -⟩⟩ := send_cases frame s <;>
    cases h'.symm.trans h
  · omega
  · exact ⟨rest, count, .busUnavailable, by decide, rfl⟩
  · exact ⟨rest, count, .noAck, by decide, rfl⟩

theorem send_stalled_inv {frame : Frame} {s t : State} (h : send frame s = .stalled t) :
    ∃ rest count, t = { s with draws := rest, drawCount := count, session := true, stuck := true } := by
  obtain ⟨rest, count, ⟨h', -⟩ | ⟨h', -⟩ | ⟨h', -⟩ | ⟨h', -⟩ | ⟨h', -⟩⟩ := send_cases frame s <;> cases h'.symm.trans h
  exact ⟨rest, count, rfl⟩

/-- What every effect on the device keeps: its fields' bounds and forms, and that it is known unless undefined. -/
def Dev.Inv (dev : Dev) : Prop := dev.Sound ∧ KnownOnceDefined dev

theorem Dev.inv_unknown : Dev.unknown.Inv := ⟨Dev.sound_unknown, knownOnceDefined_unknown⟩

theorem Dev.Inv.obsInstr {dev : Dev} (x : Iw) (h : dev.Inv) : (obsInstr x dev).Inv :=
  ⟨Dev.sound_obsInstr x dev h.1, knownOnceDefined_obsInstr x dev h.2⟩

theorem Dev.Inv.memWrite {dev : Dev} (v : Byte) (h : dev.Inv) : (dev.memWrite v).Inv :=
  ⟨Dev.sound_memWrite v dev h.1, knownOnceDefined_memWrite v dev h.2⟩

theorem Dev.Inv.obsApply {dev : Dev} (frame : Frame) (h : dev.Inv) : (obsApply frame dev).Inv :=
  obsApply_keeps Dev.Inv Dev.inv_unknown (fun x _ h => h.obsInstr x) (fun v _ h => h.memWrite v) frame dev h

/-- INIT's four frames make every field known but the counter and CGRAM, whatever the device was (R60, R124). -/
theorem known_after_init {plan : List Frame} {tail : Option Duration} (hp : planOf .init = some (plan, tail)) (dev : Dev) :
    (deliver plan dev).Known := by
  cases hp
  have hend : deliver [⟨0x00, [0x38]⟩, ⟨0x00, [0x0C]⟩, ⟨0x00, [0x01]⟩, ⟨0x00, [0x06]⟩] dev =
      (((dev.setFunction true true false).setDisplay true false false).clear).setEntry true false := rfl
  rw [hend]
  simp [Dev.Known, Memory.read_filled]

/-- The invariant inside a request: the same bounds, with a request in progress, no session held between two attempts,
and `frames` left of the plan, which for INIT are enough to make the device known (R19, R60). -/
structure State.Running (frames : List Frame) (s : State) : Prop where
  left    : s.plan.drop s.pc = frames
  block   : s.BlockSound
  busy    : s.busy = true
  req     : s.req ≠ none
  session : s.session = false
  stuck   : s.stuck = false
  tail    : ∀ t, s.tail = some t → t = .initTail
  trace   : s.TraceSound
  dev     : s.dev.Inv
  init    : s.req = some .init → (deliver frames s.dev).Known

section
variable {frame : Frame} {rest : List Frame} {s : State}

theorem State.Running.pc_lt (h : s.Running (frame :: rest)) : s.pc < s.plan.length := by
  have hlen := congrArg List.length h.left
  rw [List.length_drop, List.length_cons] at hlen
  omega

theorem State.Running.legal (h : s.Running (frame :: rest)) : legalFrame frame = true := by
  obtain ⟨-, hall, -⟩ := h.block
  exact List.all_eq_true.1 hall frame (List.mem_of_mem_drop (h.left ▸ List.mem_cons_self))

theorem State.Running.acked {t : State} (h : s.Running (frame :: rest)) (hsend : send frame s = .acked t) :
    { t with pc := t.pc + 1 }.Running rest := by
  obtain ⟨draws, count, rfl⟩ := send_acked_inv hsend
  obtain ⟨hlen, hall, -, hbuffers⟩ := h.block
  exact {
    left := by
      show s.plan.drop (s.pc + 1) = rest
      rw [← List.tail_drop, h.left, List.tail_cons]
    block := ⟨hlen, hall, h.pc_lt, hbuffers⟩
    busy := h.busy
    req := h.req
    session := rfl
    stuck := h.stuck
    tail := h.tail
    trace := h.trace.append rfl rfl (attemptEvents_legal _ h.legal (by decide)) (spaced_attemptEvents _ _ _)
    dev := h.dev.obsApply frame
    init := h.init }

/-- A request that ends at a failed attempt leaves the invariant (R59, R107). -/
theorem State.Running.failed {t : State} {cause : Cause} (h : s.Running (frame :: rest))
    (hsend : send frame s = .failed cause t) : (raise (.transportError cause t.pc) t).Inv := by
  obtain ⟨draws, count, out, hout, rfl⟩ := send_failed_inv (legalFrame_fits h.legal) hsend
  obtain ⟨hlen, hall, hpc, hline, hglyphs, hrows, -⟩ := h.block
  refine ⟨⟨hlen, hall, hpc, hline, hglyphs, hrows, by simp⟩, ⟨?_, ?_, ?_⟩, ?_, Dev.inv_unknown⟩
  · exact h.stuck.symm
  · exact h.stuck.symm
  · exact fun hstuck => absurd (h.stuck.symm.trans hstuck) (by decide)
  · exact h.trace.append rfl rfl (attemptEvents_legal _ h.legal hout) (spaced_attemptEvents _ _ _)

/-- A request that stalls leaves the invariant, its session held at a frame of its plan (R32, R116). -/
theorem State.Running.stalled {t : State} (h : s.Running (frame :: rest)) (hsend : send frame s = .stalled t) : t.Inv := by
  obtain ⟨draws, count, rfl⟩ := send_stalled_inv hsend
  exact ⟨h.block, ⟨h.busy, rfl, fun _ => ⟨h.req, h.pc_lt⟩⟩, h.trace, h.dev⟩

end

theorem tailTrace_sound {tail : Option Duration} (slave : BitVec 7) (h : ∀ t, tail = some t → t = .initTail) :
    (tailTrace tail).all (legalEvent slave) = true ∧ spaced (tailTrace tail) = true := by
  cases tail with
  | none => exact ⟨rfl, rfl⟩
  | some t => obtain rfl := h t rfl; exact ⟨rfl, rfl⟩

/-- A request that ends with `OK` leaves the invariant; for INIT the device is known (R19, R60). -/
theorem State.Running.finished {s : State} (h : s.Running []) : (finish s).Inv := by
  obtain ⟨hlen, hall, hpc, hline, hglyphs, hrows, -⟩ := h.block
  obtain ⟨hlegal, hspaced⟩ := tailTrace_sound s.cfg.slave h.tail
  rw [finish_eq]
  refine ⟨⟨hlen, hall, hpc, hline, hglyphs, hrows, by simp⟩, ⟨?_, ?_, ?_⟩, ?_, ?_⟩
  · exact h.stuck.symm
  · exact h.session.trans h.stuck.symm
  · exact fun hstuck => absurd (h.stuck.symm.trans hstuck) (by decide)
  · exact h.trace.append rfl rfl hlegal hspaced
  · by_cases hinit : s.req = some .init
    · simp only [hinit, if_true]
      exact ⟨h.dev.1, fun _ => h.init hinit⟩
    · simp only [hinit, if_false]
      exact h.dev

/-- The loop of R19 leaves the invariant, however the transport answers. -/
theorem State.Running.runFrames {frames : List Frame} {s : State} (h : s.Running frames) : (runFrames frames s).Inv :=
  runFrames_induct (P := fun frames s => s.Running frames) (Q := State.Inv)
    (fun _ h => h.finished) (fun _ _ _ _ h => h.acked) (fun _ _ _ _ _ h => h.failed) (fun _ _ _ _ h => h.stalled) frames s h

/-- A request that an idle block accepts starts its loop with the whole plan left. -/
theorem State.Inv.accepted {s : State} {req : Request} {plan : List Frame} {tail : Option Duration} (h : s.Inv)
    (hbusy : s.busy = false) (hp : planOf req = some (plan, tail)) : (accepted req plan tail s).Running plan := by
  obtain ⟨⟨-, -, -, hline, hglyphs, hrows, hresult⟩, ⟨hbs, hss, -⟩, htrace, hdev⟩ := h
  obtain ⟨hlegal, hlen⟩ := planOf_legal hp
  obtain ⟨hline, hglyphs, hrows⟩ := buffered_sizes hp hline hglyphs hrows
  have hstuck : s.stuck = false := hbs.symm.trans hbusy
  exact {
    left := rfl
    block := ⟨hlen, hlegal, Nat.zero_le _, hline, hglyphs, hrows, by simpa [Machine.accepted] using hresult⟩
    busy := rfl
    req := Option.some_ne_none req
    session := (buffered_session req s).trans (hss.trans hstuck)
    stuck := (buffered_stuck req s).trans hstuck
    tail := planOf_tail hp
    trace := htrace.append (buffered_cfg req s) (new := []) (by simp [Machine.accepted]) rfl rfl
    dev := (buffered_dev req s).symm ▸ hdev
    init := fun hinit => by
      obtain rfl := Option.some.inj hinit
      exact known_after_init hp _ }

/-- A request that is refused keeps the invariant. -/
theorem State.Inv.refused {s : State} (h : s.Inv) (hbusy : s.busy = false) (req : Request) (e : Result) :
    (refusedWith req e s).Inv := by
  obtain ⟨⟨hlen, hall, hpc, hline, hglyphs, hrows, -⟩, ⟨hbs, hss, -⟩, htrace, hdev⟩ := h
  have hstuck : s.stuck = false := hbs.symm.trans hbusy
  exact ⟨⟨hlen, hall, hpc, hline, hglyphs, hrows, by simp [refusedWith]⟩,
    ⟨hstuck.symm, hss, fun hst => absurd (hstuck.symm.trans hst) (by decide)⟩, htrace, hdev⟩

/-- A request of an idle block keeps the invariant. -/
theorem State.Inv.exec_request {s t : State} {req : Request} (h : s.Inv) (hbusy : s.busy = false)
    (hexec : exec (.ofRequest req) s = .next t) : t.Inv := by
  obtain he | ⟨plan, tail, hp, he⟩ := exec_request_idle_cases req
  · obtain rfl := Host.Outcome.next.inj ((he s hbusy).symm.trans hexec)
    exact h.refused hbusy req _
  · obtain rfl := Host.Outcome.next.inj ((he s hbusy).symm.trans hexec)
    exact (h.accepted hbusy hp).runFrames

/-- A byte or the end of a transfer on the device's side keeps the invariant. -/
theorem State.Inv.wireEffect {s t : State} (h : s.Inv) (heffect : WireEffect s t) : t.Inv := by
  obtain ⟨hblock, hpaused, htrace, hdev⟩ := h
  have hdev : s.dev.Inv := hdev
  obtain ⟨_, rfl⟩ | ⟨x, rfl⟩ | ⟨v, rfl⟩ | ⟨_, rfl⟩ := heffect
  · exact ⟨hblock, hpaused, htrace, hdev⟩
  · exact ⟨hblock, hpaused, htrace, hdev.obsInstr x⟩
  · exact ⟨hblock, hpaused, htrace, hdev.memWrite v⟩
  · exact ⟨hblock, hpaused, htrace, Dev.inv_unknown⟩

/-- Settles O48: by `step_cases`; a step that takes a request keeps the invariant through `State.Running`, the
invariant inside its loop, and no request is in progress before a step that is not stuck. -/
theorem stepKeepsSoundness : Obligations.StepKeepsSoundness := by
  intro s t h hstep
  obtain ⟨-, ⟨_, rest, -, hwire⟩ | ⟨-, hstuck, hbusy, -⟩ | ⟨-, -, -, -, rfl⟩ | ⟨item, rest, -, -, hbusy, -, hexec⟩⟩ :=
    step_cases hstep
  · exact State.Inv.wireEffect (s := { s with wire := rest }) h hwire
  · obtain ⟨-, ⟨hbs, -⟩, -⟩ := h
    simp [hbs, hstuck] at hbusy
  · exact h
  · exact State.Inv.exec_request (s := { s with port := rest }) h hbusy hexec

/-- Settles O49: nothing is recorded, nothing is in progress, and nothing is known of the device. -/
theorem constructionIsSound : Obligations.ConstructionIsSound := by
  intro busId slave
  refine ⟨⟨Nat.zero_le _, rfl, Nat.le_refl 0, Nat.zero_le _, rfl, ?_, rfl⟩, ⟨rfl, rfl, ?_⟩, ⟨rfl, rfl⟩, Dev.inv_unknown⟩
  · exact fun glyph h => List.eq_of_mem_replicate h ▸ List.length_replicate
  · exact fun h => Bool.noConfusion h

/-! ## How a request of an idle block ends, by the answers of the transport -/

section
variable {req : Request} {plan : List Frame} {tail : Option Duration} {s : State} {rest : List Draw}

/-- The first `k` frames acknowledged, the loop stands at frame `k` (R19, R32). -/
theorem exec_acked_upto {k : Nat} (hp : planOf req = some (plan, tail)) (hb : s.busy = false) (hk : k ≤ plan.length)
    (hd : s.draws = List.replicate k .ack ++ rest) :
    exec (.ofRequest req) s = .next (runFrames (plan.drop k) (afterFrames (plan.take k) rest
      (accepted req plan tail s))) := by
  have hlen : (plan.take k).length = k := List.length_take_of_le hk
  rw [exec_planned hp hb, ← runFrames_acked (plan.take k) (plan.drop k) rest, List.take_append_drop]
  · exact fun frame hframe => planOf_fits hp frame (List.mem_of_mem_take hframe)
  · rw [hlen]
    exact (buffered_draws req s).trans hd

/-- The frame at which a plan stands, with what is left behind it. -/
theorem drop_eq_cons_of_lt {k : Nat} (hk : k < plan.length) (hp : planOf req = some (plan, tail)) :
    ∃ frame more, plan.drop k = frame :: more ∧ frame.payload.length ≤ 32 :=
  ⟨plan[k], plan.drop (k + 1), List.drop_eq_getElem_cons hk, planOf_fits hp _ (List.getElem_mem hk)⟩

end

/-- Settles O24: the whole plan is acknowledged, and the loop ends by `finish_eq`. -/
theorem plannedRequestCompletes : Obligations.PlannedRequestCompletes := by
  intro req plan tail s rest hp hb hd
  rw [exec_acked_upto hp hb (Nat.le_refl _) hd, List.drop_length, List.take_length, runFrames, finish_eq]
  simp [afterFrames, accepted, completed, planOf_ne_nil hp]

/-- Settles O41: frame `k` fails after `k` acknowledged ones, and the loop raises its error there. -/
theorem failedAttemptEndsRequest : Obligations.FailedAttemptEndsRequest := by
  intro req plan tail k answer cause out s rest hp hb hk hanswer hd
  obtain ⟨frame, more, hdrop, hfit⟩ := drop_eq_cons_of_lt hk hp
  have hlen : (plan.take k).length = k := List.length_take_of_le (Nat.le_of_lt hk)
  have hsend : ∀ u : State, u.draws = answer :: rest →
      send frame u = .failed cause (attemptFailed frame out { u with draws := rest }) := by
    intro u hu
    simp only [List.mem_cons, List.not_mem_nil, or_false, Prod.mk.injEq] at hanswer
    obtain ⟨rfl, rfl, rfl⟩ | ⟨rfl, rfl, rfl⟩ := hanswer
    · exact send_busUnavailable hfit hu
    · exact send_noAck hfit hu
  rw [exec_acked_upto hp hb (Nat.le_of_lt hk) hd, hdrop, runFrames, hsend _ rfl]
  simp [raise, conclude, attemptFailed, endAttempt, attemptEvents, afterFrames, accepted, failedAt, hdrop, hlen,
    obsFail, obsUndef]

/-- Settles O42: frame `k` is never answered, the loop stops there, and a stuck state has no work. -/
theorem stalledTransportSticks : Obligations.StalledTransportSticks := by
  intro req plan tail k s rest hp hb hk hd
  obtain ⟨frame, more, hdrop, hfit⟩ := drop_eq_cons_of_lt hk hp
  have hlen : (plan.take k).length = k := List.length_take_of_le (Nat.le_of_lt hk)
  refine ⟨_, exec_acked_upto hp hb (Nat.le_of_lt hk) hd, ?_, ?_⟩ <;> rw [hdrop, runFrames, send_stall hfit rfl]
  · simp [afterFrames, accepted, stalledAt, hlen]
  · intro hcfg hwire
    rw [step_eq_runWork, nextWork_block, blockWork_stuck rfl]
    · rfl
    · exact (buffered_wire req s).trans hwire
    · exact (congrArg legalCfg (buffered_cfg req s)).trans hcfg

/-- Settles O39: by `exec_refused`, a table that is not well-formed having no plan. -/
theorem malformedGlyphTableRefused : Obligations.MalformedGlyphTableRefused :=
  fun _ _ hb hbad => exec_refused (req := .loadGlyphs _) (if_neg hbad) hb

/-! ## What a request leaves unchanged -/

/-- Settles O46: a refusal writes REQ and its result alone; else the buffer is filled, and the loop keeps
`fixedPart`. -/
theorem requestFrame : Obligations.RequestFrame := by
  intro req s hb
  obtain he | ⟨plan, tail, -, he⟩ := exec_request_idle_cases req
  · exact ⟨_, he s hb, rfl, rfl, rfl, rfl, rfl, fun _ => rfl, fun _ => rfl⟩
  · have hfixed := fixedPart_runFrames plan (accepted req plan tail s)
    simp only [fixedPart, Prod.mk.injEq] at hfixed
    obtain ⟨hcfg, hreq, -, -, hline, hglyphs, hport, hwire, hrx⟩ := hfixed
    exact ⟨_, he s hb, hcfg.trans (buffered_cfg req s), hreq, hport.trans (buffered_port req s),
      hwire.trans (buffered_wire req s), hrx.trans (buffered_rx req s),
      fun h => hline.trans (buffered_lineBuf h s), fun h => hglyphs.trans (buffered_glyphBuf h s)⟩

/-! ## A busy block: the request that waits is the one offered -/

/-- The operand in the low bits of a request word, under an opcode that leaves them 0 (R77). -/
theorem extractLsb'_low_or {k : Nat} (op : RequestWord) (a : BitVec k) (hk : k ≤ 16) (h : op.extractLsb' 0 k = 0#k) :
    (op ||| a.setWidth 16).extractLsb' 0 k = a := by
  rw [BitVec.extractLsb'_or, h, BitVec.zero_or]
  ext i hi
  simp [show i < 16 by omega, BitVec.getLsbD_eq_getElem hi]

/-- The bits above the operand are the opcode's own (R77). -/
theorem extractLsb'_high_or {k start len : Nat} (op : RequestWord) (a : BitVec k) (hk : k ≤ start) :
    (op ||| a.setWidth 16).extractLsb' start len = op.extractLsb' start len := by
  ext i hi
  simp [BitVec.getLsbD_of_ge a (start + i) (by omega)]

/-- A request word that is illegal is refused with the attachment `encodeRequest` gives it (R79). -/
theorem decodeRequest_misplaced (w : RequestWord) : decodeRequest ⟨w, misplacedAttachment w⟩ = .illegal w := by
  by_cases ha : opcodeOf w = 0xA#4
  · simp [misplacedAttachment, decodeRequest, decodeBareRequest, ha]
  · by_cases hb : opcodeOf w = 0xB#4
    · simp [misplacedAttachment, decodeRequest, decodeBareRequest, hb]
    · simp [misplacedAttachment, decodeRequest, decodeTextRequest, ha, hb]

/-- What `encodeRequest` puts on the port decodes to the request, its operands being in their ranges (R76 to R79). -/
theorem decodeRequest_encodeRequest {req : Request} (h : wellFormed (.ofRequest req) = true) :
    decodeRequest (encodeRequest req) = req := by
  cases req with
  | setEntryMode dir shift => cases dir <;> cases shift <;> rfl
  | setDisplayOn cursorOn blinkOn => cases cursorOn <;> cases blinkOn <;> rfl
  | setCgramAddress a =>
    simp [encodeRequest, decodeRequest, decodeBareRequest, opcodeOf, extractLsb'_high_or, extractLsb'_low_or]
  | setDdramAddress a =>
    simp [encodeRequest, decodeRequest, decodeBareRequest, opcodeOf, extractLsb'_high_or, extractLsb'_low_or]
  | writeRamData value =>
    have hvalue : value < 4096 := of_decide_eq_true h
    simp [encodeRequest, decodeRequest, decodeBareRequest, opcodeOf, extractLsb'_high_or, extractLsb'_low_or,
      Nat.mod_eq_of_lt hvalue]
  | displayLine line text =>
    have hline : line < 256 := of_decide_eq_true h
    simp [encodeRequest, decodeRequest, decodeTextRequest, opcodeOf, extractLsb'_high_or, extractLsb'_low_or,
      Nat.mod_eq_of_lt hline]
  | loadGlyphs table => simp [encodeRequest, decodeRequest, decodeGlyphRequest, opcodeOf]
  | illegal w => exact decodeRequest_misplaced w
  | _ => rfl

/-- Settles O44: the request goes back to the port as `encodeRequest` packs it, and decodes from there. -/
theorem busyBlockKeepsRequestWaiting : Obligations.BusyBlockKeepsRequestWaiting :=
  fun req s hb hwf => ⟨_, exec_request_busy req s hb, decodeRequest_encodeRequest hwf⟩

/-! ## The block never reads the device, nor an earlier result -/

/-- A state with another RESULT and another record of results. -/
def State.withResults (r : Option Result) (rs : List Result) (s : State) : State := { s with result := r, results := rs }

/-- A change of the state whose effect on all but the device does not depend on the device (R22, R25). -/
def DeviceBlind (f : State → State) : Prop := ∀ dev s, ∃ dev', f (s.withDev dev) = (f s).withDev dev'

theorem nextDraw_withDev (dev : Dev) (s : State) :
    nextDraw (s.withDev dev) = ((nextDraw s).1, (nextDraw s).2.withDev dev) := by
  unfold nextDraw
  cases h : s.draws <;> simp [State.withDev, h]

theorem send_withDev (frame : Frame) (dev : Dev) (s : State) :
    ∃ dev', send frame (s.withDev dev) = (send frame s).map (State.withDev dev') := by
  have hdraw := nextDraw_withDev dev { s with session := true }
  simp only [send, State.withDev] at hdraw ⊢
  split
  · exact ⟨_, rfl⟩
  · rw [hdraw]
    obtain ⟨answer, u⟩ := nextDraw { s with session := true }
    cases answer <;> exact ⟨_, rfl⟩

theorem finish_deviceBlind : DeviceBlind finish := by
  intro dev s
  rw [finish_eq, finish_eq]
  exact ⟨_, rfl⟩

theorem runFrames_deviceBlind (frames : List Frame) : DeviceBlind (runFrames frames) := by
  induction frames with
  | nil => exact finish_deviceBlind
  | cons frame rest ih =>
    intro dev s
    obtain ⟨dev', hsend⟩ := send_withDev frame dev s
    rw [runFrames, runFrames, hsend]
    cases send frame s with
    | acked u => exact ih dev' { u with pc := u.pc + 1 }
    | failed cause u => exact ⟨dev', rfl⟩
    | stalled u => exact ⟨dev', rfl⟩

theorem accepted_withDev (req : Request) (plan : List Frame) (tail : Option Duration) (dev : Dev) (s : State) :
    accepted req plan tail (s.withDev dev) = (accepted req plan tail s).withDev dev := by
  cases req <;> rfl

theorem DeviceBlind.blockPart {f : State → State} (hf : DeviceBlind f) (dev : Dev) (s : State) :
    blockPart (.next (f (s.withDev dev))) = blockPart (.next (f s)) := by
  obtain ⟨dev', h⟩ := hf dev s
  rw [h]
  rfl

/-- A request does the same in the block, whatever the device is. -/
theorem exec_request_blockPart (req : Request) (dev : Dev) (s : State) :
    blockPart (exec (.ofRequest req) (s.withDev dev)) = blockPart (exec (.ofRequest req) s) := by
  cases hb : s.busy with
  | true =>
    rw [exec_request_busy req s hb, exec_request_busy req (s.withDev dev) hb]
    rfl
  | false =>
    obtain he | ⟨plan, tail, -, he⟩ := exec_request_idle_cases req
    · rw [he s hb, he (s.withDev dev) hb]
      rfl
    · rw [he s hb, he (s.withDev dev) hb, accepted_withDev]
      exact (runFrames_deviceBlind plan).blockPart dev _

/-- Every instruction is a request of the port, or has an effect of the device's side of the bus. -/
theorem Instr.request_or_wire (i : Instr) :
    (∃ req, i = .ofRequest req) ∨ ∃ f, DeviceBlind f ∧ ∀ s, exec i s = .next (f s) := by
  cases i with
  | reqInit => exact .inl ⟨.init, rfl⟩
  | reqClrdisp => exact .inl ⟨.clearDisplay, rfl⟩
  | reqHome => exact .inl ⟨.returnHome, rfl⟩
  | reqEntry dir shift => exact .inl ⟨.setEntryMode dir shift, rfl⟩
  | reqDispon cursorOn blinkOn => exact .inl ⟨.setDisplayOn cursorOn blinkOn, rfl⟩
  | reqDispoff => exact .inl ⟨.setDisplayOff, rfl⟩
  | reqSetcg a => exact .inl ⟨.setCgramAddress a, rfl⟩
  | reqSetdd a => exact .inl ⟨.setDdramAddress a, rfl⟩
  | reqWrdata value => exact .inl ⟨.writeRamData value, rfl⟩
  | reqDline line text => exact .inl ⟨.displayLine line text, rfl⟩
  | reqLdglyph table => exact .inl ⟨.loadGlyphs table, rfl⟩
  | reqIllegal w => exact .inl ⟨.illegal w, rfl⟩
  | _ => exact .inr ⟨_, fun _ _ => ⟨_, rfl⟩, fun _ => rfl⟩

/-- An instruction does the same in the block, whatever the device is. -/
theorem exec_blockPart (i : Instr) (dev : Dev) (s : State) : blockPart (exec i (s.withDev dev)) = blockPart (exec i s) := by
  obtain ⟨req, rfl⟩ | ⟨f, hf, hexec⟩ := Instr.request_or_wire i
  · exact exec_request_blockPart req dev s
  · rw [hexec, hexec]
    exact hf.blockPart dev s

theorem takeRejected_deviceBlind (why : Reject) : DeviceBlind (takeRejected why) := by
  intro dev s
  cases why <;> exact ⟨_, rfl⟩

theorem takeWire_blockPart (ev : BusEvent) (dev : Dev) (s : State) :
    blockPart (runWork (takeWire ev (s.withDev dev))) = blockPart (runWork (takeWire ev s)) := by
  cases ev with
  | stop => rfl
  | byte b =>
    cases hdecode : decodeWire s.rx b with
    | instr i =>
      rw [takeWire_instr hdecode, takeWire_instr (s := s.withDev dev) hdecode]
      exact exec_blockPart i dev s
    | reject why =>
      rw [takeWire_reject hdecode, takeWire_reject (s := s.withDev dev) hdecode]
      exact (takeRejected_deviceBlind why).blockPart dev s

theorem takePort_blockPart (dev : Dev) (s : State) :
    blockPart (runWork (takePort (s.withDev dev))) = blockPart (runWork (takePort s)) := by
  cases hport : s.port with
  | nil =>
    rw [takePort_nil hport, takePort_nil (s := s.withDev dev) hport]
    rfl
  | cons item rest =>
    rw [takePort_cons hport, takePort_cons (s := s.withDev dev) hport]
    exact exec_request_blockPart (decodeRequest item) dev { s with port := rest }

theorem blockWork_blockPart (dev : Dev) (s : State) :
    blockPart (runWork (blockWork (s.withDev dev))) = blockPart (runWork (blockWork s)) := by
  cases hstuck : s.stuck with
  | true => rw [blockWork_stuck hstuck, blockWork_stuck (s := s.withDev dev) hstuck]
  | false =>
    cases hbusy : s.busy with
    | true =>
      rw [blockWork_busy hstuck hbusy, blockWork_busy (s := s.withDev dev) hstuck hbusy]
      exact (runFrames_deviceBlind (s.plan.drop s.pc)).blockPart dev s
    | false =>
      rw [blockWork_idle hstuck hbusy, blockWork_idle (s := s.withDev dev) hstuck hbusy]
      exact takePort_blockPart dev s

/-- Settles O51: what a step works on is chosen without the device, and each kind of work is blind to it. -/
theorem blockNeverObservesDevice : Obligations.BlockNeverObservesDevice := by
  intro s dev
  cases hcfg : legalCfg s.cfg with
  | false => simp [step, State.withDev, hcfg]
  | true =>
    rw [step_eq_runWork hcfg, step_eq_runWork (s := s.withDev dev) hcfg]
    cases hwire : s.wire with
    | cons ev rest =>
      rw [nextWork_wire hwire, nextWork_wire (s := s.withDev dev) hwire]
      exact takeWire_blockPart ev dev { s with wire := rest }
    | nil =>
      rw [nextWork_block hwire, nextWork_block (s := s.withDev dev) hwire]
      exact blockWork_blockPart dev s

theorem nextDraw_withResults (r : Option Result) (rs : List Result) (s : State) :
    nextDraw (s.withResults r rs) = ((nextDraw s).1, (nextDraw s).2.withResults r rs) := by
  unfold nextDraw
  cases h : s.draws <;> simp [State.withResults, h]

theorem send_withResults (frame : Frame) (r : Option Result) (rs : List Result) (s : State) :
    send frame (s.withResults r rs) = (send frame s).map (State.withResults r rs) := by
  have hdraw := nextDraw_withResults r rs { s with session := true }
  simp only [send, State.withResults] at hdraw ⊢
  split
  · rfl
  · rw [hdraw]
    obtain ⟨answer, u⟩ := nextDraw { s with session := true }
    cases answer <;> rfl

/-- The loop of R19 does the same after other results, and where it ends it delivers the same one (R21). -/
theorem runFrames_withResults (frames : List Frame) (r : Option Result) (rs : List Result) (s : State) :
    ∃ r' rs', runFrames frames (s.withResults r rs) = (runFrames frames s).withResults r' rs' ∧
      ((runFrames frames s).stuck = false → (runFrames frames s).result = r') := by
  induction frames generalizing s with
  | nil =>
    rw [runFrames, runFrames, finish_eq, finish_eq]
    exact ⟨some .ok, rs ++ [.ok], rfl, fun _ => rfl⟩
  | cons frame rest ih =>
    rw [runFrames, runFrames, send_withResults]
    cases hsend : send frame s with
    | acked u => exact ih { u with pc := u.pc + 1 }
    | failed cause u => exact ⟨_, _, rfl, fun _ => rfl⟩
    | stalled u => exact ⟨r, rs, rfl, fun h => Bool.noConfusion ((send_stalled_stuck hsend).symm.trans h)⟩

theorem accepted_withResults (req : Request) (plan : List Frame) (tail : Option Duration) (r : Option Result)
    (rs : List Result) (s : State) :
    accepted req plan tail (s.withResults r rs) = (accepted req plan tail s).withResults r rs := by
  cases req <;> rfl

/-- Settles O52: a refusal gives its own result, and the loop does the same after other results. -/
theorem resultsIndependent : Obligations.ResultsIndependent := by
  intro req s r rs hb _
  obtain he | ⟨plan, tail, -, he⟩ := exec_request_idle_cases req
  · exact ⟨_, _, he s hb, he (s.withResults r rs) hb, rfl, rfl, rfl, rfl, fun _ => rfl⟩
  · obtain ⟨r', rs', heq, hresult⟩ := runFrames_withResults plan r rs (accepted req plan tail s)
    refine ⟨_, _, he s hb, he (s.withResults r rs) hb, ?_⟩
    rw [accepted_withResults, heq]
    exact ⟨rfl, rfl, rfl, rfl, hresult⟩

end Sys2Proof.Machine
end

section
/-! SUPPORT. The device's memories: what a data byte does at every counter, runs of data bytes over consecutive cells
(DLINE, LDGLYPH), the effects of the instruction bytes, a frame taken byte by byte, and how an undefined device is known
again (R33, R36, R48 to R60). -/

namespace Sys2Proof.Machine

/-! ## A data byte -/

theorem exec_dataByte (v : Byte) (s : State) : exec (.dataByte v) s = .next { s with dev := s.dev.memWrite v } := rfl

/-- R56's step of the counter, as a choice by the entry mode. -/
theorem steppedAc_eq (id : Option Bool) (a : Nat) :
    steppedAc id a =
      if id = some true then some (a + 1) else if id = some false ∧ 0 < a then some (a - 1) else none := by
  cases id with
  | none => rfl
  | some up => cases up <;> simp [steppedAc]

theorem cgCell_eq (v : Byte) : cgCell v = if v.toNat ≤ 0x1F then some v else none := by
  simp only [cgCell, BitVec.le_def]
  rfl

/-- R57's valid addresses, by the line mode. -/
theorem validDd_iff (n : Option Bool) (a : Nat) :
    validDd n a = true ↔ (n = some false ∧ a ≤ 0x4F) ∨ (n = some true ∧ (a ≤ 0x27 ∨ (0x40 ≤ a ∧ a ≤ 0x67))) := by
  cases n with
  | none => simp [validDd]
  | some two => cases two <;> simp [validDd]

/-- What a RAM keeps of a data byte (R56). -/
def Ram.keep : Ram → Byte → Option Byte
  | .dd => some
  | .cg => cgCell

/-- The contents of one of the device's RAMs. -/
def Dev.memory (ram : Ram) (dev : Dev) : Memory :=
  match ram with
  | .dd => dev.ddram
  | .cg => dev.cgram

/-- The device with other contents of one of its RAMs. -/
def Dev.setMemory (ram : Ram) (m : Memory) (dev : Dev) : Dev :=
  match ram with
  | .dd => { dev with ddram := m }
  | .cg => { dev with cgram := m }

/-- Is `a` a valid address of this RAM (R39, R40, R57)? -/
def Dev.HasCell (ram : Ram) (a : Nat) (dev : Dev) : Prop :=
  match ram with
  | .dd => validDd dev.n a = true
  | .cg => a < 64

/-- A data byte with a cell to go to: `Dev.memWrite_cg` and `Dev.memWrite_dd` for either RAM (R56). -/
theorem Dev.memWrite_cell {dev : Dev} {ram : Ram} {a : Nat} (b : Byte) (hac : dev.ac = some a)
    (hsel : dev.sel = some ram) (hcell : dev.HasCell ram a) :
    dev.memWrite b =
      { dev.setMemory ram (Memory.write (dev.memory ram) a (ram.keep b)) with ac := steppedAc dev.id a } := by
  cases ram with
  | dd => exact Dev.memWrite_dd b hac hsel hcell
  | cg => exact Dev.memWrite_cg b hac hsel hcell

/-- A data byte with no cell to go to makes the device unknown (R57, R59). -/
theorem Dev.memWrite_unknown {dev : Dev} (b : Byte)
    (h : ∀ ram a, dev.sel = some ram → dev.ac = some a → ¬ dev.HasCell ram a) : dev.memWrite b = Dev.unknown := by
  obtain ⟨a, hac, hsel, hlt, -⟩ | ⟨a, hac, hsel, hvalid, -⟩ | hunknown := dev.memWrite_cases b
  · exact absurd hlt (h .cg a hsel hac)
  · exact absurd hvalid (h .dd a hsel hac)
  · exact hunknown

/-- Settles O19: `Dev.memWrite_cg` gives the state, a read after a write the cells. -/
theorem dataByteIntoCgram : Obligations.DataByteIntoCgram := by
  intro s a v hac hsel ha
  refine ⟨Memory.write s.dev.cgram a (cgCell v), ?_, fun x => ?_⟩
  · rw [exec_dataByte, Dev.memWrite_cg v hac hsel (by omega), steppedAc_eq]
  · rw [Memory.read_write, cgCell_eq]

/-- Settles O20: `Dev.memWrite_dd` gives the state, a read after a write the cells. -/
theorem dataByteIntoDdram : Obligations.DataByteIntoDdram := by
  intro s a v hac hsel hvalid
  refine ⟨Memory.write s.dev.ddram a (some v), ?_, fun x => Memory.read_write s.dev.ddram a x (some v)⟩
  rw [exec_dataByte, Dev.memWrite_dd v hac hsel ((validDd_iff _ a).2 hvalid), steppedAc_eq]

/-- Settles O21: in none of the listed cases is there a cell to write. -/
theorem dataByteOutsideUndefines : Obligations.DataByteOutsideUndefines := by
  intro s v h
  rw [exec_dataByte, Dev.memWrite_unknown]
  intro ram a hsel hac hcell
  obtain hnone | hnone | ⟨a', hac', hout⟩ := h
  · cases hac.symm.trans hnone
  · cases hsel.symm.trans hnone
  · obtain rfl : a = a' := Option.some.inj (hac.symm.trans hac')
    cases ram with
    | cg =>
      have hlt : a < 64 := hcell
      obtain ⟨-, hout⟩ | ⟨hdd, -⟩ := hout
      · omega
      · cases hsel.symm.trans hdd
    | dd =>
      obtain ⟨hcg, -⟩ | ⟨-, hout⟩ := hout
      · cases hsel.symm.trans hcg
      · obtain ⟨hn, hle⟩ | ⟨hn, hle⟩ := (validDd_iff _ a).1 hcell
        · simp only [hn, reduceCtorEq, Option.some.injEq, Bool.false_eq_true, true_and, false_and, false_or,
            or_false] at hout
          omega
        · simp only [hn, reduceCtorEq, Option.some.injEq, Bool.true_eq_false, true_and, false_and, false_or] at hout
          omega

/-! ## Runs of data bytes over consecutive cells -/

/-- Write a list of bytes to the cells from `a` on, each as far as `keep` keeps it. -/
def Memory.writeRun (keep : Byte → Option Byte) (m : Memory) (a : Nat) : List Byte → Memory
  | [] => m
  | v :: vs => Memory.writeRun keep (Memory.write m a (keep v)) (a + 1) vs

/-- The cells of a run hold its bytes in order, and every other cell is as before. -/
theorem Memory.read_writeRun (keep : Byte → Option Byte) (m : Memory) (a x : Nat) (bytes : List Byte) :
    Memory.read (Memory.writeRun keep m a bytes) x =
      if a ≤ x ∧ x < a + bytes.length then bytes[x - a]?.bind keep else Memory.read m x := by
  induction bytes generalizing m a with
  | nil => rw [if_neg (by rw [List.length_nil]; omega)]; rfl
  | cons v vs ih =>
    rw [Memory.writeRun, ih, Memory.read_write, List.length_cons]
    obtain hlt | rfl | hgt := Nat.lt_trichotomy x a
    · rw [if_neg (by omega), if_neg (by omega), if_neg (by omega)]
    · rw [if_neg (by omega), if_pos rfl, if_pos (by omega), Nat.sub_self, List.getElem?_cons_zero, Option.bind_some]
    · have hindex : x - a = (x - (a + 1)) + 1 := by omega
      by_cases hin : x < a + 1 + vs.length
      · rw [if_pos (by omega), if_pos (by omega), hindex, List.getElem?_cons_succ]
      · rw [if_neg (by omega), if_neg (by omega), if_neg (by omega)]

/-- A device whose counter stands at address `a` of `ram`: where a SetCGRAM or SetDDRAM byte leaves it (R54, R55). -/
def Dev.pointAt (ram : Ram) (a : Nat) (dev : Dev) : Dev := { dev with sel := some ram, ac := some a }

/-- With increment, a data byte at a valid address is stored there, and the counter stands at the next one (R56). -/
theorem obsDataByte_pointAt {dev : Dev} {ram : Ram} {a : Nat} (v : Byte) (hid : dev.id = some true)
    (hcell : dev.HasCell ram a) :
    obsDataByte (dev.pointAt ram a) v =
      (dev.setMemory ram (Memory.write (dev.memory ram) a (ram.keep v))).pointAt ram (a + 1) := by
  have hstored := Dev.memWrite_cell (dev := dev.pointAt ram a) v rfl rfl hcell
  have hstep : steppedAc (dev.pointAt ram a).id a = some (a + 1) := congrArg (steppedAc · a) hid
  rw [obsDataByte, hstored, hstep]
  cases ram <;> rfl

/-- With increment, data bytes fill a run of valid addresses, and the counter stands behind it (R56, R57). -/
theorem foldl_obsDataByte_pointAt (bytes : List Byte) {dev : Dev} {ram : Ram} {a : Nat} (hid : dev.id = some true)
    (hcells : ∀ k, k < bytes.length → dev.HasCell ram (a + k)) :
    bytes.foldl obsDataByte (dev.pointAt ram a) =
      (dev.setMemory ram (Memory.writeRun ram.keep (dev.memory ram) a bytes)).pointAt ram (a + bytes.length) := by
  induction bytes generalizing dev a with
  | nil => cases ram <;> rfl
  | cons v vs ih =>
    have hnext : ∀ k, k < vs.length → dev.HasCell ram (a + 1 + k) := fun k hk => by
      rw [Nat.add_right_comm]
      exact hcells (k + 1) (Nat.succ_lt_succ hk)
    rw [List.foldl_cons, obsDataByte_pointAt (a := a) v hid (hcells 0 (Nat.succ_pos _)), List.length_cons,
      ← Nat.add_assoc, Nat.add_right_comm]
    cases ram with
    | dd => exact ih (dev := dev.setMemory .dd _) hid hnext
    | cg => exact ih (dev := dev.setMemory .cg _) hid hnext

/-- Data bytes leave a device of which nothing is known as it is (R57). -/
theorem foldl_obsDataByte_unknown (bytes : List Byte) : bytes.foldl obsDataByte Dev.unknown = Dev.unknown :=
  foldl_keeps (fun dev => dev = Dev.unknown) obsDataByte (by rintro _ _ rfl; rfl) bytes _ rfl

/-! ## DLINE: one run into DDRAM -/

/-- An acknowledged DLINE ends with `OK`, its bytes taken from the line's base on (R41, R97, R98). -/
theorem exec_dline_acked {s : State} {rest : List Draw} {text : List Byte} {line addr : Nat} (hb : s.busy = false)
    (hd : s.draws = .ack :: .ack :: rest) (hlen : text.length ≤ 32)
    (hline : (line, addr) ∈ [(1, 0x00), (2, 0x40), (3, 0x14), (4, 0x54)]) :
    ∃ t, exec (.reqDline line text) s = .next t ∧ t.result = some .ok ∧
      t.dev = text.foldl obsDataByte (s.dev.pointAt .dd addr) := by
  have hexec : ∀ base, planOf (.displayLine line text) = some ([⟨0x00, [base]⟩, ⟨0x40, text⟩], none) →
      exec (.reqDline line text) s = .next (completed (.displayLine line text) [⟨0x00, [base]⟩, ⟨0x40, text⟩] none rest
        (text.foldl obsDataByte (obsInstrByte s.dev base)) (buffered (.displayLine line text) s)) :=
    fun base hplan => plannedRequestCompletes (.displayLine line text) _ none s rest hplan hb hd
  simp only [List.mem_cons, List.not_mem_nil, or_false, Prod.mk.injEq] at hline
  obtain ⟨rfl, rfl⟩ | ⟨rfl, rfl⟩ | ⟨rfl, rfl⟩ | ⟨rfl, rfl⟩ := hline
  · exact ⟨_, hexec 0x80 (if_pos hlen), rfl, rfl⟩
  · exact ⟨_, hexec 0xC0 (if_pos hlen), rfl, rfl⟩
  · exact ⟨_, hexec 0x94 (if_pos hlen), rfl, rfl⟩
  · exact ⟨_, hexec 0xD4 (if_pos hlen), rfl, rfl⟩

/-- Settles O32: the text is one run over valid addresses. -/
theorem dlineFillsItsCells : Obligations.DlineFillsItsCells := by
  intro s rest text line addr room hb hd hn hid hline hroom
  simp only [List.mem_cons, List.not_mem_nil, or_false, Prod.mk.injEq] at hline
  have hbase : (line, addr) ∈ [(1, 0x00), (2, 0x40), (3, 0x14), (4, 0x54)] := by
    simp only [List.mem_cons, List.not_mem_nil, or_false, Prod.mk.injEq]
    omega
  obtain ⟨t, hexec, hok, hdev⟩ := exec_dline_acked (text := text) hb hd (by omega) hbase
  have hcells : ∀ k, k < text.length → s.dev.HasCell .dd (addr + k) := fun k hk =>
    (validDd_iff _ _).2 (.inr ⟨hn, by omega⟩)
  rw [foldl_obsDataByte_pointAt text hid hcells] at hdev
  refine ⟨t, hexec, hok, by rw [hdev]; rfl, fun x => ?_⟩
  rw [hdev, ← Option.bind_fun_some text[x - addr]?]
  exact Memory.read_writeRun some s.dev.ddram addr x text

/-- Settles O33: the first 20 bytes are one run up to the last valid address of the line, and the next byte has no cell
to go to. -/
theorem dlineOverrunUndefines : Obligations.DlineOverrunUndefines := by
  intro s rest text line hb hd hn hid hline hlong hfit
  obtain ⟨addr, hbase, haddr⟩ : ∃ addr, (line, addr) ∈ [(1, 0x00), (2, 0x40), (3, 0x14), (4, 0x54)] ∧
      (addr = 0x14 ∨ addr = 0x54) := by
    obtain rfl | rfl := hline
    · exact ⟨0x14, by simp, .inl rfl⟩
    · exact ⟨0x54, by simp, .inr rfl⟩
  obtain ⟨t, hexec, hok, hdev⟩ := exec_dline_acked hb hd hfit hbase
  refine ⟨t, hexec, hok, hdev.trans ?_⟩
  have hlen : (text.take 20).length = 20 := List.length_take_of_le (by omega)
  have hcells : ∀ k, k < (text.take 20).length → s.dev.HasCell .dd (addr + k) := fun k hk =>
    (validDd_iff _ _).2 (.inr ⟨hn, by omega⟩)
  rw [← List.take_append_drop 20 text, List.drop_eq_getElem_cons hlong, List.foldl_append, List.foldl_cons,
    foldl_obsDataByte_pointAt (text.take 20) hid hcells, obsDataByte, Dev.memWrite_unknown, foldl_obsDataByte_unknown]
  intro ram a hsel hac hcell
  obtain rfl := Option.some.inj hsel
  obtain rfl := Option.some.inj hac
  obtain ⟨hn', -⟩ | ⟨-, hle⟩ := (validDd_iff _ _).1 hcell
  · cases hn.symm.trans hn'
  · omega

/-! ## LDGLYPH: one run into CGRAM for each slot -/

theorem glyphTableOk.getD {table : List (List Nat)} (hok : glyphTableOk table) {i : Nat} (hi : i < 8) :
    (table.getD i []).length = 8 ∧ ∀ row ∈ table.getD i [], row ≤ 0x1F := by
  obtain ⟨hlen, hglyphs⟩ := hok
  have hi : i < table.length := hlen ▸ hi
  rw [List.getD_eq_getElem?_getD, List.getElem?_eq_getElem hi, Option.getD_some]
  exact hglyphs _ (List.getElem_mem hi)

theorem glyphPlan_length {table : List (List Nat)} (hok : glyphTableOk table) : (glyphPlan table).length = 72 := by
  have hslot : ∀ i ∈ List.range 8, (slotPlan i (table.getD i [])).length = 9 := fun i hi => by
    rw [slotPlan, List.length_cons, List.length_map, (hok.getD (List.mem_range.1 hi)).1]
  rw [glyphPlan, List.length_flatMap, List.map_congr_left hslot]
  rfl

/-- An acknowledged LDGLYPH ends with `OK`, its frames delivered (R102). -/
theorem exec_ldglyph_acked {s : State} {rest : List Draw} {table : List (List Nat)} (hb : s.busy = false)
    (hok : glyphTableOk table) (hd : s.draws = List.replicate 72 .ack ++ rest) :
    ∃ t, exec (.reqLdglyph table) s = .next t ∧ t.result = some .ok ∧ t.dev = deliver (glyphPlan table) s.dev :=
  ⟨_, plannedRequestCompletes (.loadGlyphs table) (glyphPlan table) none s rest (if_pos hok) hb
    (hd.trans (by rw [glyphPlan_length hok])), rfl, rfl⟩

/-- The address byte of a slot selects CGRAM at the slot's base (R54, R102). -/
theorem obsInstrByte_slot : ∀ i, i < 8 → ∀ dev : Dev,
    obsInstrByte dev (BitVec.ofNat 8 (0x40 + 8 * i)) = dev.pointAt .cg (8 * i) := by
  have hdecode : ∀ i, i < 8 → decodeIw (BitVec.ofNat 8 (0x40 + 8 * i)) = some (.setCg (BitVec.ofNat 6 (8 * i))) := by
    decide
  intro i hi dev
  simp only [obsInstrByte, hdecode i hi, obsInstr, Dev.setCg, Dev.pointAt, BitVec.toNat_ofNat]
  rw [Nat.mod_eq_of_lt (by omega)]

/-- The frames of a slot: its address, then its rows as a run of data bytes (R102). -/
theorem deliver_slotPlan {i : Nat} (hi : i < 8) (glyph : List Nat) (dev : Dev) :
    deliver (slotPlan i glyph) dev = (glyph.map (BitVec.ofNat 8)).foldl obsDataByte (dev.pointAt .cg (8 * i)) := by
  rw [slotPlan, deliver_cons, obsApply_iw, obsInstrByte_slot i hi, deliver, List.foldl_map, List.foldl_map]
  simp only [obsApply_dw, obsDataByte]

/-- A row of 5 bits keeps its cell known (R56). -/
theorem cgCell_row {row : Nat} (h : row ≤ 0x1F) : cgCell (BitVec.ofNat 8 row) = some (BitVec.ofNat 8 row) := by
  rw [cgCell_eq, if_pos]
  rw [BitVec.toNat_ofNat, Nat.mod_eq_of_lt] <;> omega

/-- The rows of a slot, as its cells keep them. -/
theorem getElem?_rows_bind_cgCell {glyph : List Nat} (hrows : ∀ row ∈ glyph, row ≤ 0x1F) (r : Nat) :
    (glyph.map (BitVec.ofNat 8))[r]?.bind cgCell = glyph[r]?.map (BitVec.ofNat 8) := by
  rw [List.getElem?_map]
  cases hrow : glyph[r]? with
  | none => rfl
  | some row => exact cgCell_row (hrows row (List.mem_of_getElem? hrow))

/-- What CGRAM cell `x` holds after a table is loaded: row `x mod 8` of glyph `x div 8` (R103). -/
def glyphCell (table : List (List Nat)) (x : Nat) : Option Byte :=
  (table.getD (x / 8) [])[x % 8]?.map (BitVec.ofNat 8)

/-- With increment, `k` slots fill the first `8 k` cells of CGRAM, and the counter stands behind them (R103, R135). -/
theorem deliver_slots_increment {table : List (List Nat)} {dev : Dev} (hok : glyphTableOk table)
    (hid : dev.id = some true) {k : Nat} (hk : k ≤ 8) :
    ∃ sel ac m, deliver ((List.range k).flatMap fun i => slotPlan i (table.getD i [])) dev =
        { dev with sel := sel, ac := ac, cgram := m } ∧
      (0 < k → sel = some .cg ∧ ac = some (8 * k)) ∧
      ∀ x, Memory.read m x = if x < 8 * k then glyphCell table x else Memory.read dev.cgram x := by
  induction k with
  | zero => exact ⟨dev.sel, dev.ac, dev.cgram, rfl, by simp, by simp⟩
  | succ k ih =>
    obtain ⟨sel, ac, m, hdev, -, hread⟩ := ih (by omega)
    obtain ⟨hlen, hrows⟩ := hok.getD (i := k) (by omega)
    have hbytes : ((table.getD k []).map (BitVec.ofNat 8)).length = 8 := by rw [List.length_map, hlen]
    refine ⟨some .cg, some (8 * (k + 1)), Memory.writeRun cgCell m (8 * k) ((table.getD k []).map (BitVec.ofNat 8)),
      ?_, fun _ => ⟨rfl, rfl⟩, fun x => ?_⟩
    · have hcells : ∀ r, r < ((table.getD k []).map (BitVec.ofNat 8)).length → 8 * k + r < 64 := by omega
      rw [List.range_succ, List.flatMap_append, deliver_append, hdev, List.flatMap_singleton,
        deliver_slotPlan (by omega),
        foldl_obsDataByte_pointAt (dev := { dev with sel := sel, ac := ac, cgram := m }) _ hid hcells, hbytes]
      rfl
    · rw [Memory.read_writeRun, hread, hbytes]
      by_cases hslot : 8 * k ≤ x ∧ x < 8 * k + 8
      · have hdiv : x / 8 = k := by omega
        have hmod : x % 8 = x - 8 * k := by omega
        rw [if_pos hslot, if_pos (by omega), glyphCell, hdiv, hmod, getElem?_rows_bind_cgCell hrows]
      · rw [if_neg hslot]
        by_cases hlow : x < 8 * k
        · rw [if_pos hlow, if_pos (by omega)]
        · rw [if_neg hlow, if_neg (by omega)]

/-- Settles O35: eight slots fill all 64 cells. -/
theorem ldglyphFillsCgram : Obligations.LdglyphFillsCgram := by
  intro s rest table hb hok hid hd
  obtain ⟨t, hexec, hresult, hdev⟩ := exec_ldglyph_acked hb hok hd
  obtain ⟨sel, ac, m, hslots, hend, hread⟩ := deliver_slots_increment hok hid (Nat.le_refl 8)
  obtain ⟨rfl, rfl⟩ := hend (by omega)
  have hdev := hdev.trans hslots
  refine ⟨t, hexec, hresult, by rw [hdev], fun i r row hi hr hrow => ?_, fun x hx => ?_⟩
  · have hdiv : (8 * i + r) / 8 = i := by omega
    have hmod : (8 * i + r) % 8 = r := by omega
    obtain ⟨glyph, hglyph, hrow⟩ := Option.bind_eq_some_iff.1 hrow
    rw [hdev, hread, if_pos (by omega), glyphCell, hdiv, hmod, List.getD_eq_getElem?_getD, hglyph,
      Option.getD_some, hrow]
    rfl
  · rw [hdev, hread, if_neg (by omega)]

/-- A slot after whose first row the counter is unknown leaves the device unknown (R57, R134). -/
theorem deliver_slotPlan_unknown {table : List (List Nat)} (hok : glyphTableOk table) {i : Nat} (hi : i < 8) {dev : Dev}
    (hstep : steppedAc dev.id (8 * i) = none) : deliver (slotPlan i (table.getD i [])) dev = Dev.unknown := by
  obtain ⟨hlen, -⟩ := hok.getD hi
  rw [deliver_slotPlan hi]
  match table.getD i [], hlen with
  | first :: second :: rows, _ =>
    have hfirst := Dev.memWrite_cg (dev := dev.pointAt .cg (8 * i)) (BitVec.ofNat 8 first) rfl rfl (by omega)
    have hcounter : ((dev.pointAt .cg (8 * i)).memWrite (BitVec.ofNat 8 first)).ac = none := by rw [hfirst]; exact hstep
    rw [List.map_cons, List.map_cons, List.foldl_cons, List.foldl_cons, obsDataByte, obsDataByte, Dev.memWrite_unknown,
      foldl_obsDataByte_unknown]
    intro ram a _ hac
    cases hcounter.symm.trans hac

/-- Slots leave a device of which nothing is known as it is (R134). -/
theorem deliver_slots_unknown {table : List (List Nat)} (hok : glyphTableOk table) (indices : List Nat)
    (h : ∀ i ∈ indices, i < 8) :
    deliver (indices.flatMap fun i => slotPlan i (table.getD i [])) Dev.unknown = Dev.unknown := by
  induction indices with
  | nil => rfl
  | cons i indices ih =>
    rw [List.flatMap_cons, deliver_append, deliver_slotPlan_unknown hok (h i List.mem_cons_self) rfl]
    exact ih fun j hj => h j (List.mem_cons_of_mem i hj)

/-- Settles O36: the first row at address 0 makes the counter unknown, the second the device, and every later slot
leaves it so. -/
theorem ldglyphDecrementUndefines : Obligations.LdglyphDecrementUndefines := by
  intro s rest table hb hok hid hd
  obtain ⟨t, hexec, hresult, hdev⟩ := exec_ldglyph_acked hb hok hd
  have hslots : List.range 8 = 0 :: [1, 2, 3, 4, 5, 6, 7] := rfl
  refine ⟨t, hexec, hresult, hdev.trans ?_⟩
  rw [glyphPlan, hslots, List.flatMap_cons, deliver_append, deliver_slotPlan_unknown hok (by omega) (by rw [hid]; rfl)]
  exact deliver_slots_unknown hok _ (by decide)

/-! ## The instruction bytes -/

/-- An instruction byte acts on the device alone (R48). -/
theorem exec_ofIw (x : Iw) (s : State) : exec (.ofIw x) s = .next { s with dev := obsInstr x s.dev } := by
  cases x <;> rfl

theorem obsInstr_idempotent (x : Iw) (dev : Dev) : obsInstr x (obsInstr x dev) = obsInstr x dev := by
  cases x <;> rfl

/-- Settles O22: each effect overwrites its fields with values that do not depend on the device. -/
theorem instructionBytesIdempotent : Obligations.InstructionBytesIdempotent := by
  intro x s
  refine ⟨_, exec_ofIw x s, ?_⟩
  rw [exec_ofIw, obsInstr_idempotent]

/-- Settles O15: the filled memory is read back by `Memory.read_filled`. -/
theorem clearEffect : Obligations.ClearEffect := by
  intro s
  refine ⟨Memory.filled 128 Config.clearFill, exec_ofIw .clear s, fun a ha => ?_, fun a ha => ?_⟩
  · rw [Memory.read_filled, if_pos ha]
  · rw [Memory.read_filled, if_neg (by omega)]

/-- Settles O16: Home writes the counter and the RAM select. -/
theorem homeEffect : Obligations.HomeEffect := exec_ofIw .home

/-- Settles O17: each flag instruction writes its own flags. -/
theorem flagInstructionEffects : Obligations.FlagInstructionEffects :=
  fun s => ⟨fun i sh => exec_ofIw (.entry i sh) s, fun d c b => exec_ofIw (.dispCtl d c b) s,
    fun dl n f => exec_ofIw (.funcSet dl n f) s⟩

/-- Settles O18: the address bytes decode by their top bits, and each effect writes the select and the counter. -/
theorem addressSetEffects : Obligations.AddressSetEffects :=
  ⟨by decide, by decide, fun s => ⟨fun a => exec_ofIw (.setCg a) s, fun a => exec_ofIw (.setDd a) s⟩⟩

/-! ## A frame on the wire and at the device's side of the bus -/

/-- Settles O8: the address byte is the slave address above a 0 bit, and bit `k` of the wire order is bit `7 - k`. -/
theorem transactionWireOrder : Obligations.TransactionWireOrder := by
  refine ⟨fun slave frame => ?_, fun b k hk => ?_⟩
  · have haddress : ∀ slave : BitVec 7, addressByte slave = BitVec.ofNat 8 (2 * slave.toNat) := by decide
    rw [wireBytes, haddress]
  · have horder : ∀ k, k < 8 → [7, 6, 5, 4, 3, 2, 1, 0][k]? = some (7 - k) := by decide
    rw [wireBits, List.getElem?_map, horder k hk]
    rfl

/-- In the place `rx` of a frame a byte changes the device by `f`, and nothing else but the bus. -/
def TakesBytes (rx : Rx) (f : Dev → Byte → Dev) : Prop :=
  ∀ {s : State} {b : Byte} {rest : List BusEvent}, legalCfg s.cfg = true → s.rx = rx → s.wire = .byte b :: rest →
    step s = .next { s with wire := rest, dev := f s.dev b }

/-- A byte that is no instruction in its place is taken as rejected. -/
theorem step_byte_reject {s : State} {b : Byte} {rest : List BusEvent} {why : Reject} (hcfg : legalCfg s.cfg = true)
    (hwire : s.wire = .byte b :: rest) (hdecode : decodeWire s.rx b = .reject why) :
    step s = .next (takeRejected why { s with wire := rest }) := by
  rw [step_eq_runWork hcfg, nextWork_wire hwire, takeWire_reject (s := { s with wire := rest }) hdecode]
  rfl

theorem step_byte_instr {s : State} {b : Byte} {rest : List BusEvent} {i : Instr} (hcfg : legalCfg s.cfg = true)
    (hwire : s.wire = .byte b :: rest) (hdecode : decodeWire s.rx b = .instr i) :
    step s = exec i { s with wire := rest } := by
  obtain ⟨hbyte, -⟩ := stepRunsTheDecodedInstruction
  exact hbyte s b rest i hcfg hwire hdecode

theorem takesBytes_ir : TakesBytes .ir obsInstrByte := by
  intro s b rest hcfg hrx hwire
  cases hdecode : decodeIw b with
  | some x =>
    rw [step_byte_instr (i := .ofIw x) hcfg hwire (by simp only [decodeWire, hrx, hdecode]), exec_ofIw]
    simp only [obsInstrByte, hdecode]
  | none =>
    rw [step_byte_reject (why := .reservedInstructionByte b) hcfg hwire (by simp only [decodeWire, hrx, hdecode])]
    simp only [takeRejected, obsInstrByte, hdecode]

theorem takesBytes_dr : TakesBytes .dr obsDataByte :=
  fun hcfg hrx hwire => step_byte_instr (i := .dataByte _) hcfg hwire (by rw [hrx]; rfl)

theorem takesBytes_other : TakesBytes .other fun dev _ => obsUndef dev :=
  fun hcfg hrx hwire => step_byte_reject (why := .noRegister _) hcfg hwire (by rw [hrx]; rfl)

/-- Bytes in a place that names no register leave the device undefined. -/
theorem foldl_obsUndef (payload : List Byte) (dev : Dev) :
    payload.foldl (fun dev _ => obsUndef dev) (obsUndef dev) = obsUndef dev :=
  foldl_keeps (fun d => d = obsUndef dev) (fun d _ => obsUndef d) (fun _ _ _ => rfl) payload _ rfl

/-- A payload runs through the device byte by byte, and the end of the transfer ends its frame (R48, R61, R63). -/
theorem run_payload {rx : Rx} {f : Dev → Byte → Dev} (htakes : TakesBytes rx f) (payload : List Byte) {s : State}
    (hcfg : legalCfg s.cfg = true) (hrx : s.rx = rx) (hwire : s.wire = payload.map .byte ++ [.stop]) :
    Sys2Proof.core.run (payload.length + 1) s =
      .next { s with wire := [], rx := .frameStart, dev := payload.foldl f s.dev } := by
  induction payload generalizing s with
  | nil =>
    obtain ⟨hstop, -, -⟩ := stepWithoutInstruction
    exact core_run_succ 0 (hstop s [] hcfg hwire)
  | cons b payload ih => exact (core_run_succ _ (htakes hcfg hrx hwire)).trans (ih hcfg hrx rfl)

/-- Settles O23: the selector picks the place of the payload, whose bytes act there as `obsApply` says of the whole
frame. -/
theorem byteByByteEqualsWholeFrame : Obligations.ByteByByteEqualsWholeFrame := by
  intro s ⟨sel, payload⟩ hcfg hrx hwire
  have hrun : ∀ {rx f dev}, TakesBytes rx f → payload.foldl f dev = obsApply ⟨sel, payload⟩ s.dev →
      step s = .next { s with wire := payload.map .byte ++ [.stop], rx := rx, dev := dev } →
      Sys2Proof.core.run (payload.length + 2) s =
        .next { s with wire := [], dev := obsApply ⟨sel, payload⟩ s.dev } := by
    intro rx f dev htakes hwhole hstep
    refine (core_run_succ _ hstep).trans ((run_payload htakes payload hcfg rfl rfl
      (s := { s with wire := payload.map .byte ++ [.stop], rx := rx, dev := dev })).trans ?_)
    rw [← hwhole, ← hrx]
  by_cases hiw : sel = Config.selIw
  · exact hrun takesBytes_ir (if_pos hiw).symm
      (step_byte_instr (i := .selIw) hcfg hwire (by rw [hrx]; exact if_pos hiw))
  · by_cases hdw : sel = Config.selDw
    · exact hrun takesBytes_dr ((if_neg hiw).trans (if_pos hdw)).symm
        (step_byte_instr (i := .selDw) hcfg hwire (by rw [hrx]; exact (if_neg hiw).trans (if_pos hdw)))
    · exact hrun takesBytes_other
        ((foldl_obsUndef payload s.dev).trans ((if_neg hiw).trans (if_neg hdw)).symm)
        (step_byte_reject (why := .unknownSelector sel) hcfg hwire (by rw [hrx]; exact (if_neg hiw).trans (if_neg hdw)))

/-! ## An undefined device -/

theorem undef_obsInstr (x : Iw) {dev : Dev} (h : dev.undef = true) : (obsInstr x dev).undef = true := by
  cases x <;> exact h

theorem undef_memWrite (v : Byte) {dev : Dev} (h : dev.undef = true) : (dev.memWrite v).undef = true := by
  obtain ⟨_, -, -, -, heq⟩ | ⟨_, -, -, -, heq⟩ | heq := dev.memWrite_cases v <;> rw [heq]
  · exact h
  · exact h
  · rfl

theorem undef_obsApply (frame : Frame) {dev : Dev} (h : dev.undef = true) : (obsApply frame dev).undef = true :=
  obsApply_keeps (fun dev => dev.undef = true) rfl (fun x _ => undef_obsInstr x) (fun v _ => undef_memWrite v) frame
    dev h

/-- No attempt makes the device known, however it ends (R32, R59, R60). -/
theorem undef_send (frame : Frame) {s : State} (h : s.dev.undef = true) : (send frame s).state.dev.undef = true := by
  obtain ⟨_, _, ⟨hs, -⟩ | ⟨hs, -⟩ | ⟨hs, -⟩ | ⟨hs, -⟩ | ⟨hs, -⟩⟩ := send_cases frame s <;> rw [hs]
  case inl => exact undef_obsApply frame h
  case inr.inr.inr.inr => exact h
  all_goals rfl

/-- If the device is not undefined in `t`, then an INIT has ended there with `OK`, the one result since `s` (R60). -/
def RecoveredByInit (s t : State) : Prop :=
  t.dev.undef = false → t.req = some .init ∧ t.result = some .ok ∧ t.results = s.results ++ [.ok] ∧ t.busy = false

theorem recoveredByInit_of_undef {s t : State} (h : t.dev.undef = true) : RecoveredByInit s t :=
  fun hknown => Bool.noConfusion (h.symm.trans hknown)

theorem recoveredByInit_finish {s : State} (h : s.dev.undef = true) : RecoveredByInit s (finish s) := by
  rw [finish_eq]
  by_cases hinit : s.req = some .init
  · exact fun _ => ⟨hinit, rfl, rfl, rfl⟩
  · exact recoveredByInit_of_undef (by simpa [hinit] using h)

/-- The loop of R19 makes the device known only at its end, for an INIT (R60). -/
theorem recoveredByInit_runFrames (frames : List Frame) {s u : State} (hundef : u.dev.undef = true)
    (hresults : u.results = s.results) : RecoveredByInit s (runFrames frames u) := by
  have hsend : ∀ {frame : Frame} {v : State} {sent : Sent}, v.dev.undef = true → send frame v = sent →
      sent.state.dev.undef = true := fun hv h => h ▸ undef_send _ hv
  refine runFrames_induct (P := fun _ v => v.dev.undef = true ∧ v.results = s.results) (Q := RecoveredByInit s)
    ?_ ?_ ?_ ?_ frames u ⟨hundef, hresults⟩
  · rintro v ⟨hv, hres⟩
    rw [RecoveredByInit, ← hres]
    exact recoveredByInit_finish hv
  · rintro frame _ v v' ⟨hv, hres⟩ h
    have hgrows := growsTrace_send frame v
    rw [h] at hgrows
    exact ⟨hsend hv h, hgrows.results.trans hres⟩
  · exact fun _ _ _ _ _ hv h => recoveredByInit_of_undef (hsend hv.1 h)
  · exact fun _ _ _ _ hv h => recoveredByInit_of_undef (hsend hv.1 h)

theorem WireEffect.undef {s t : State} (h : WireEffect s t) (hundef : s.dev.undef = true) : t.dev.undef = true := by
  obtain ⟨_, rfl⟩ | ⟨x, rfl⟩ | ⟨v, rfl⟩ | ⟨_, rfl⟩ := h
  · exact hundef
  · exact undef_obsInstr x hundef
  · exact undef_memWrite v hundef
  · rfl

/-- Settles O50: by `step_cases`; only the loop of R19 can make the device known. -/
theorem onlyInitRecoversDevice : Obligations.OnlyInitRecoversDevice := by
  intro s t hstep hundef
  show RecoveredByInit s t
  obtain ⟨-, ⟨_, _, -, hwire⟩ | ⟨-, -, -, rfl⟩ | ⟨-, -, -, -, rfl⟩ | ⟨item, rest, -, -, hbusy, -, hexec⟩⟩ :=
    step_cases hstep
  · exact recoveredByInit_of_undef (hwire.undef hundef)
  · exact recoveredByInit_runFrames _ hundef rfl
  · exact recoveredByInit_of_undef hundef
  · obtain he | ⟨plan, tail, -, he⟩ := exec_request_idle_cases (decodeRequest item)
    · obtain rfl := Host.Outcome.next.inj ((he { s with port := rest } hbusy).symm.trans hexec)
      exact recoveredByInit_of_undef hundef
    · obtain rfl := Host.Outcome.next.inj ((he { s with port := rest } hbusy).symm.trans hexec)
      exact recoveredByInit_runFrames plan ((congrArg Dev.undef (buffered_dev _ _)).trans hundef) (buffered_results _ _)

/-! ## A payload that does not fit -/

/-- Settles O43: the length is checked before a draw is taken. -/
theorem oversizedFrameFails : Obligations.OversizedFrameFails := fun _ _ hbig => if_pos hbig

end Sys2Proof.Machine
end

section
/-! SUPPORT. The encodings: a decoder's inverse for each place in which an instruction can stand, the request words in
numbers, the instruction bytes the block emits, and the pseudo-instructions that the encodings stand for (R61 to R83). -/

namespace Sys2Proof.Machine

/-! ## Instruction bytes: `encIw` and `decodeIw` are inverse to each other -/

/-- Decoding an encoded symbolic instruction gives it back (R81). -/
theorem decodeIw_encIw (x : Iw) : decodeIw (encIw x) = some x := by
  cases x with
  | clear => rfl
  | home => rfl
  | entry id s => revert id s; decide
  | dispCtl d c b => revert d c b; decide
  | funcSet dl n f => revert dl n f; decide
  | setCg a => revert a; decide
  | setDd a => revert a; decide

/-- Encoding what a byte decodes to gives the byte back (R81). -/
theorem encIw_of_decodeIw : ∀ (b : Byte) (x : Iw), decodeIw b = some x → encIw x = b := by
  have htable : ∀ b : Byte, ∀ x ∈ decodeIw b, encIw x = b := by decide
  exact htable

theorem encode_ofIw (x : Iw) : encode (.ofIw x) = .wire .ir (encIw x) := by cases x <;> rfl

theorem encode_ofRequest (req : Request) : encode (.ofRequest req) = .port (encodeRequest req) := by cases req <;> rfl

theorem decode_encode_ofIw (x : Iw) : decode (encode (.ofIw x)) = .instr (.ofIw x) := by
  rw [encode_ofIw, decode, decodeWire, decodeIw_encIw]

theorem decode_encode_ofRequest {req : Request} (h : wellFormed (.ofRequest req) = true) :
    decode (encode (.ofRequest req)) = .instr (.ofRequest req) := by
  rw [encode_ofRequest, decode, decodeRequest_encodeRequest h]

/-- Settles O2: the selectors and the data byte are read as they stand, and the instruction bytes and the requests have
their round trips. -/
theorem decodeOfEncode : Obligations.DecodeOfEncode := by
  intro i hwf
  cases i with
  | selIw => rfl
  | selDw => rfl
  | dataByte v => rfl
  | clear => exact decode_encode_ofIw .clear
  | home => exact decode_encode_ofIw .home
  | entryModeSet id s => exact decode_encode_ofIw (.entry id s)
  | displayControl d c b => exact decode_encode_ofIw (.dispCtl d c b)
  | functionSet dl n f => exact decode_encode_ofIw (.funcSet dl n f)
  | setCgram a => exact decode_encode_ofIw (.setCg a)
  | setDdram a => exact decode_encode_ofIw (.setDd a)
  | reqInit => exact decode_encode_ofRequest (req := .init) hwf
  | reqClrdisp => exact decode_encode_ofRequest (req := .clearDisplay) hwf
  | reqHome => exact decode_encode_ofRequest (req := .returnHome) hwf
  | reqEntry dir shift => exact decode_encode_ofRequest (req := .setEntryMode dir shift) hwf
  | reqDispon cursorOn blinkOn => exact decode_encode_ofRequest (req := .setDisplayOn cursorOn blinkOn) hwf
  | reqDispoff => exact decode_encode_ofRequest (req := .setDisplayOff) hwf
  | reqSetcg a => exact decode_encode_ofRequest (req := .setCgramAddress a) hwf
  | reqSetdd a => exact decode_encode_ofRequest (req := .setDdramAddress a) hwf
  | reqWrdata value => exact decode_encode_ofRequest (req := .writeRamData value) hwf
  | reqDline line text => exact decode_encode_ofRequest (req := .displayLine line text) hwf
  | reqLdglyph table => exact decode_encode_ofRequest (req := .loadGlyphs table) hwf
  | reqIllegal w => exact decode_encode_ofRequest (req := .illegal w) hwf

/-- Settles O1: each word is read by its own decoder, at its own bits. -/
theorem specWordsDecode : Obligations.SpecWordsDecode :=
  ⟨rfl, rfl, rfl, rfl, rfl, rfl, rfl, rfl, rfl, rfl, rfl, rfl⟩

/-! ## Request words in numbers -/

theorem opcodeOf_toNat (w : RequestWord) : (opcodeOf w).toNat = w.toNat / 4096 := by
  have hw := w.isLt
  rw [opcodeOf, BitVec.extractLsb'_toNat, Nat.shiftRight_eq_div_pow]
  omega

theorem opcodeOf_eq_iff (w : RequestWord) (op : BitVec 4) : opcodeOf w = op ↔ w.toNat / 4096 = op.toNat := by
  rw [← BitVec.toNat_inj, opcodeOf_toNat]

theorem extractLsb'_eq_zero_iff (w : RequestWord) (start len : Nat) :
    w.extractLsb' start len = 0#len ↔ w.toNat / 2 ^ start % 2 ^ len = 0 := by
  rw [← BitVec.toNat_inj]
  simp [Nat.shiftRight_eq_div_pow]

/-- An operand under an opcode that leaves its bits 0 is added to it (R77). -/
theorem or_setWidth_eq_ofNat_add {k : Nat} (op : RequestWord) (a : BitVec k) (hk : k ≤ 16) (hop : 2 ^ k ∣ op.toNat) :
    op ||| a.setWidth 16 = BitVec.ofNat 16 (op.toNat + a.toNat) := by
  obtain ⟨q, hq⟩ := hop
  have ha : a.toNat < 2 ^ 16 := Nat.lt_of_lt_of_le a.isLt (Nat.pow_le_pow_right (by omega) hk)
  apply BitVec.eq_of_toNat_eq
  have hor : 2 ^ k * q + a.toNat < 2 ^ 16 := by
    rw [Nat.two_pow_add_eq_or_of_lt a.isLt, ← hq]
    exact Nat.or_lt_two_pow op.isLt ha
  rw [BitVec.toNat_or, BitVec.toNat_setWidth, BitVec.toNat_ofNat, Nat.mod_eq_of_lt ha, hq,
    Nat.mod_eq_of_lt hor, Nat.two_pow_add_eq_or_of_lt a.isLt]

/-- A request that stands on the port as R77 tabulates it is well-formed and packed by `encodeRequest`. -/
theorem encodeRequest_of_standsAs {req : Request} {item : PortItem} (h : standsAs req item)
    (hlegal : ∀ w, req ≠ .illegal w) :
    wellFormed (.ofRequest req) = true ∧ item = encodeRequest req := by
  cases req with
  | setEntryMode dir shift => cases dir <;> cases shift <;> exact ⟨rfl, h⟩
  | setDisplayOn cursorOn blinkOn => cases cursorOn <;> cases blinkOn <;> exact ⟨rfl, h⟩
  | setCgramAddress a =>
    exact ⟨rfl, h.trans (congrArg (PortItem.mk · _) (or_setWidth_eq_ofNat_add 0x7000 a (by omega) ⟨448, rfl⟩).symm)⟩
  | setDdramAddress a =>
    exact ⟨rfl, h.trans (congrArg (PortItem.mk · _) (or_setWidth_eq_ofNat_add 0x8000 a (by omega) ⟨256, rfl⟩).symm)⟩
  | writeRamData value =>
    obtain ⟨hvalue, rfl⟩ := h
    refine ⟨decide_eq_true hvalue, congrArg (PortItem.mk · _) ?_⟩
    have hword := or_setWidth_eq_ofNat_add 0x9000 (BitVec.ofNat 12 value) (by omega) ⟨9, rfl⟩
    rwa [BitVec.toNat_ofNat, Nat.mod_eq_of_lt (a := value) hvalue, eq_comm] at hword
  | displayLine line text =>
    obtain ⟨hline, rfl⟩ := h
    refine ⟨decide_eq_true hline, congrArg (PortItem.mk · _) ?_⟩
    have hword := or_setWidth_eq_ofNat_add 0xA000 (BitVec.ofNat 8 line) (by omega) ⟨160, rfl⟩
    rwa [BitVec.toNat_ofNat, Nat.mod_eq_of_lt (a := line) hline, eq_comm] at hword
  | illegal w => exact absurd rfl (hlegal w)
  | _ => exact ⟨rfl, h⟩

/-! ## The table of R77 and the refusals of R79 -/

/-- The request that an item carries, by its attachment; `none` where R79 refuses it. -/
def legalRequest (item : PortItem) : Option Request :=
  match item.att with
  | .absent => decodeBareRequest item.word
  | .bytes text => decodeTextRequest item.word text
  | .glyphs table => decodeGlyphRequest item.word table

theorem decodeRequest_eq_getD (item : PortItem) : decodeRequest item = (legalRequest item).getD (.illegal item.word) := by
  obtain ⟨w, _ | _ | _⟩ := item <;> rfl

theorem decodeBareRequest_eq_none_iff (w : RequestWord) :
    decodeBareRequest w = none ↔ standsIllegal ⟨w, .absent⟩ := by
  have hw := w.isLt
  unfold decodeBareRequest
  rw [opcodeOf_toNat]
  split
  case h_10 =>
    simp only [imp_false] at *
    simp [standsIllegal]
    omega
  all_goals simp [standsIllegal, extractLsb'_eq_zero_iff, *] <;> omega

theorem decodeTextRequest_eq_none_iff (w : RequestWord) (text : List Byte) :
    decodeTextRequest w text = none ↔ standsIllegal ⟨w, .bytes text⟩ := by
  have hw := w.isLt
  simp [decodeTextRequest, standsIllegal, extractLsb'_eq_zero_iff, opcodeOf_eq_iff]
  omega

theorem decodeGlyphRequest_eq_none_iff (w : RequestWord) (table : List (List Nat)) :
    decodeGlyphRequest w table = none ↔ standsIllegal ⟨w, .glyphs table⟩ := by
  have hw := w.isLt
  simp [decodeGlyphRequest, standsIllegal, extractLsb'_eq_zero_iff, opcodeOf_eq_iff]
  omega

theorem legalRequest_eq_none_iff (item : PortItem) : legalRequest item = none ↔ standsIllegal item := by
  obtain ⟨w, _ | text | table⟩ := item
  · exact decodeBareRequest_eq_none_iff w
  · exact decodeTextRequest_eq_none_iff w text
  · exact decodeGlyphRequest_eq_none_iff w table

/-- A word is its opcode plus its operand where the bits between the two are 0 (R77). -/
theorem eq_ofNat_add_operand {w : RequestWord} (op k : Nat) (h : w.toNat = op + w.toNat % 2 ^ k) :
    w = BitVec.ofNat 16 (op + (w.extractLsb' 0 k).toNat) := by
  rw [BitVec.extractLsb'_toNat, Nat.shiftRight_zero, ← h, BitVec.ofNat_toNat, BitVec.setWidth_eq]

/-- The rows of R77 that carry no attachment, opcode by opcode. -/
theorem standsAs_of_decodeBareRequest {w : RequestWord} {req : Request} (h : decodeBareRequest w = some req) :
    standsAs req ⟨w, .absent⟩ := by
  unfold decodeBareRequest at h
  rw [opcodeOf_toNat] at h
  split at h <;>
    simp only [Option.ite_none_right_eq_some, extractLsb'_eq_zero_iff, Option.some.injEq, reduceCtorEq] at h
  case h_9 hop =>
    subst h
    exact ⟨BitVec.isLt _, congrArg (PortItem.mk · _) (eq_ofNat_add_operand 0x9000 12 (by omega))⟩
  all_goals obtain ⟨hlow, rfl⟩ := h
  case h_4 hop =>
    have hword : w = 0x4000 ∨ w = 0x4001 ∨ w = 0x4002 ∨ w = 0x4003 := by bv_omega
    obtain rfl | rfl | rfl | rfl := hword <;> rfl
  case h_5 hop =>
    have hword : w = 0x5000 ∨ w = 0x5001 ∨ w = 0x5002 ∨ w = 0x5003 := by bv_omega
    obtain rfl | rfl | rfl | rfl := hword <;> rfl
  case h_7 hop => exact congrArg (PortItem.mk · _) (eq_ofNat_add_operand 0x7000 6 (by omega))
  case h_8 hop => exact congrArg (PortItem.mk · _) (eq_ofNat_add_operand 0x8000 7 (by omega))
  all_goals exact congrArg (PortItem.mk · _) (by bv_omega)

theorem standsAs_of_decodeTextRequest {w : RequestWord} {text : List Byte} {req : Request}
    (h : decodeTextRequest w text = some req) : standsAs req ⟨w, .bytes text⟩ := by
  simp only [decodeTextRequest, Option.ite_none_right_eq_some, opcodeOf_eq_iff, extractLsb'_eq_zero_iff,
    Option.some.injEq] at h
  obtain ⟨⟨hop, hlow⟩, rfl⟩ := h
  have hop : w.toNat / 4096 = 10 := hop
  exact ⟨BitVec.isLt _, congrArg (PortItem.mk · _) (eq_ofNat_add_operand 0xA000 8 (by omega))⟩

theorem standsAs_of_decodeGlyphRequest {w : RequestWord} {table : List (List Nat)} {req : Request}
    (h : decodeGlyphRequest w table = some req) : standsAs req ⟨w, .glyphs table⟩ := by
  simp only [decodeGlyphRequest, Option.ite_none_right_eq_some, opcodeOf_eq_iff, extractLsb'_eq_zero_iff,
    Option.some.injEq] at h
  obtain ⟨⟨hop, hlow⟩, rfl⟩ := h
  exact congrArg (PortItem.mk · _) (by bv_omega)

theorem standsAs_of_legalRequest {item : PortItem} {req : Request} (h : legalRequest item = some req) :
    standsAs req item := by
  obtain ⟨w, _ | text | table⟩ := item
  · exact standsAs_of_decodeBareRequest h
  · exact standsAs_of_decodeTextRequest h
  · exact standsAs_of_decodeGlyphRequest h

/-- Settles O3: an item stands as its decoder reads it, by `legalRequest`; a request that stands there is read back by
its round trip, or refused by `legalRequest_eq_none_iff`. -/
theorem requestsStandAsTabulated : Obligations.RequestsStandAsTabulated := by
  intro item req
  constructor
  · rintro rfl
    rw [decodeRequest_eq_getD]
    cases h : legalRequest item with
    | none => exact ⟨rfl, (legalRequest_eq_none_iff item).1 h⟩
    | some req => exact standsAs_of_legalRequest h
  · intro h
    cases req with
    | illegal w =>
      obtain ⟨rfl, h⟩ := h
      rw [decodeRequest_eq_getD, (legalRequest_eq_none_iff item).2 h]
      rfl
    | _ =>
      obtain ⟨hwf, rfl⟩ := encodeRequest_of_standsAs h nofun
      exact decodeRequest_encodeRequest hwf

/-! ## The plans of the flag requests carry their flags -/

theorem planOf_setEntryMode (dir : Dir) (shift : Shift) : planOf (.setEntryMode dir shift) =
    some ([⟨0x00, [encIw (.entry (decide (dir = .left)) (decide (shift = .on)))]⟩], none) := by
  cases dir <;> cases shift <;> rfl

theorem planOf_setDisplayOn (c b : Bool) :
    planOf (.setDisplayOn c b) = some ([⟨0x00, [encIw (.dispCtl true c b)]⟩], none) := by
  cases c <;> cases b <;> rfl

/-- Settles O4: the round trips above, and the plan of an acknowledged request stands in PLAN. -/
theorem instructionBytesRoundTrip : Obligations.InstructionBytesRoundTrip := by
  refine ⟨decodeIw_encIw, encIw_of_decodeIw, fun s rest hb hd => ⟨fun dir shift => ?_, fun c b => ?_, ?_⟩⟩
  · exact ⟨_, plannedRequestCompletes _ _ none s rest (planOf_setEntryMode dir shift) hb hd, rfl⟩
  · exact ⟨_, plannedRequestCompletes _ _ none s rest (planOf_setDisplayOn c b) hb hd, rfl⟩
  · exact ⟨_, plannedRequestCompletes .setDisplayOff _ none s rest rfl hb hd, rfl⟩

/-! ## The reserved instruction bytes -/

/-- Settles O5: the list by the bits of the byte, the step by `takesBytes_ir`. -/
theorem reservedBytesUndefineDevice : Obligations.ReservedBytesUndefineDevice := by
  refine ⟨by decide, fun s b rest hcfg hrx hwire hreserved => (takesBytes_ir hcfg hrx hwire).trans ?_⟩
  rw [obsInstrByte, hreserved]
  rfl

/-! ## The instruction bytes the block emits (R74) -/

/-- From `s` to `t` the configuration stands and the trace grows by legal events alone (R32, R74). -/
def AppendsLegal (s t : State) : Prop :=
  t.cfg = s.cfg ∧ ∃ new, t.trace = s.trace ++ new ∧ new.all (legalEvent s.cfg.slave) = true

theorem AppendsLegal.of_eq {s t : State} (hcfg : t.cfg = s.cfg) (htrace : t.trace = s.trace) : AppendsLegal s t :=
  ⟨hcfg, [], by simp [htrace], rfl⟩

theorem AppendsLegal.trans {s t u : State} (h₁ : AppendsLegal s t) (h₂ : AppendsLegal t u) : AppendsLegal s u := by
  obtain ⟨hcfg₁, new₁, htrace₁, hlegal₁⟩ := h₁
  obtain ⟨hcfg₂, new₂, htrace₂, hlegal₂⟩ := h₂
  refine ⟨hcfg₂.trans hcfg₁, new₁ ++ new₂, by rw [htrace₂, htrace₁, List.append_assoc], ?_⟩
  rw [List.all_append, hlegal₁, ← hcfg₁, hlegal₂]
  rfl

theorem appendsLegal_finish (s : State) : AppendsLegal s (finish s) := by
  rw [finish_eq]
  exact ⟨rfl, tailTrace s.tail, rfl, by cases s.tail <;> rfl⟩

/-- An attempt of a legal frame leaves legal events, however it ends. -/
theorem appendsLegal_send {frame : Frame} (s : State) (hframe : legalFrame frame = true) :
    AppendsLegal s (send frame s).state := by
  have hfit := legalFrame_fits hframe
  cases hsend : send frame s with
  | acked t =>
    obtain ⟨_, _, rfl⟩ := send_acked_inv hsend
    exact ⟨rfl, _, rfl, attemptEvents_legal s.cfg.slave hframe (by decide)⟩
  | failed cause t =>
    obtain ⟨_, _, out, hout, rfl⟩ := send_failed_inv hfit hsend
    exact ⟨rfl, _, rfl, attemptEvents_legal s.cfg.slave hframe hout⟩
  | stalled t =>
    obtain ⟨_, _, rfl⟩ := send_stalled_inv hsend
    exact .of_eq rfl rfl

theorem appendsLegal_runFrames {frames : List Frame} (s : State) (hframes : frames.all legalFrame = true) :
    AppendsLegal s (runFrames frames s) := by
  have hstep : ∀ {frame : Frame} {rest : List Frame} {u : State} {sent : Sent},
      (frame :: rest).all legalFrame = true ∧ AppendsLegal s u → send frame u = sent →
      rest.all legalFrame = true ∧ AppendsLegal s sent.state := by
    rintro frame rest u sent ⟨hall, hu⟩ rfl
    obtain ⟨hframe, hrest⟩ := Bool.and_eq_true_iff.1 hall
    exact ⟨hrest, hu.trans (appendsLegal_send u hframe)⟩
  refine runFrames_induct (P := fun rest u => rest.all legalFrame = true ∧ AppendsLegal s u) (Q := AppendsLegal s)
    ?_ ?_ ?_ ?_ frames s ⟨hframes, .of_eq rfl rfl⟩
  · exact fun u ⟨_, hu⟩ => hu.trans (appendsLegal_finish u)
  · exact fun _ _ _ _ h hsend => hstep h hsend
  · exact fun _ _ _ _ _ h hsend => (hstep h hsend).2
  · exact fun _ _ _ _ h hsend => (hstep h hsend).2

/-- A request of an idle block leaves legal events alone (R32, R74). -/
theorem exec_request_appendsLegal {req : Request} {s t : State} (hb : s.busy = false)
    (hexec : exec (.ofRequest req) s = .next t) : AppendsLegal s t := by
  obtain he | ⟨plan, tail, hp, he⟩ := exec_request_idle_cases req
  · obtain rfl := Host.Outcome.next.inj ((he s hb).symm.trans hexec)
    exact .of_eq rfl rfl
  · obtain rfl := Host.Outcome.next.inj ((he s hb).symm.trans hexec)
    obtain ⟨hplan, -⟩ := planOf_legal hp
    exact (AppendsLegal.of_eq (buffered_cfg req s) (buffered_trace req s)).trans
      (appendsLegal_runFrames (accepted req plan tail s) hplan)

/-- The only byte of a legal IW frame is emittable (R74). -/
theorem emittable_of_legalFrame {b : Byte} (h : legalFrame ⟨0x00, [b]⟩ = true) : emittable b = true := by
  simpa [legalFrame] using h

/-- A request whose plan begins with the frame of this symbolic instruction, where there is one (R84 to R93). -/
def requestSending : Iw → Request
  | .clear => .clearDisplay
  | .home => .returnHome
  | .entry id s => .setEntryMode (dirOfBit id) (shiftOfBit s)
  | .dispCtl d c b => if d then .setDisplayOn c b else .setDisplayOff
  | .funcSet _ _ _ => .init
  | .setCg a => .setCgramAddress a
  | .setDd a => .setDdramAddress a

/-- Each byte of R74 stands in the first frame of some request's plan. -/
theorem emittable_heads_plan : ∀ b : Byte, emittable b = true →
    ((decodeIw b).bind fun x => planOf (requestSending x)).bind (fun p => p.1.head?) = some ⟨0x00, [b]⟩ := by
  decide

/-- The first frame of a plan is attempted even if the device never acknowledges (R19, R32). -/
theorem attempts_first_frame {req : Request} {frame : Frame} {more : List Frame} {tail : Option Duration} {s : State}
    (hp : planOf req = some (frame :: more, tail)) (hb : s.busy = false) (hd : s.draws = [.noAck]) :
    ∃ t, exec (.ofRequest req) s = .next t ∧ t.trace = s.trace ++ attemptEvents s.cfg.slave frame .noAck := by
  refine ⟨_, failedAttemptEndsRequest req (frame :: more) tail 0 .noAck .noAck .noAck s [] hp hb (Nat.succ_pos _)
    (by decide) hd, ?_⟩
  simp [failedAt, ackTrace, attemptEvents]

/-- Settles O6: a byte of R74 heads some plan, whose first frame is attempted; and every attempt is a legal event. -/
theorem emittedInstructionBytes : Obligations.EmittedInstructionBytes := by
  refine ⟨fun b => ⟨fun hb => ?_, ?_⟩, by decide, fun dl n f => ?_⟩
  · have hhead := emittable_heads_plan b hb
    simp only [Option.bind_eq_some_iff, List.head?_eq_some_iff] at hhead
    obtain ⟨⟨plan, tail⟩, ⟨x, -, hp⟩, more, hplan⟩ := hhead
    obtain rfl : plan = ⟨0x00, [b]⟩ :: more := hplan
    obtain ⟨t, hexec, htrace⟩ := attempts_first_frame (s := { State.reset with draws := [.noAck] }) hp rfl rfl
    exact ⟨_, _, t, rfl, hexec, _, .noAck, htrace, List.mem_cons_self⟩
  · rintro ⟨req, s, t, hbusy, hexec, new, out, htrace, hmem⟩
    obtain ⟨-, new', htrace', hlegal⟩ := exec_request_appendsLegal hbusy hexec
    obtain rfl : new = new' := List.append_cancel_left (htrace.symm.trans htrace')
    have hevent := List.all_eq_true.1 hlegal _ hmem
    simp only [legalEvent, Bool.and_eq_true] at hevent
    obtain ⟨⟨-, hframe⟩, -⟩ := hevent
    exact emittable_of_legalFrame hframe
  · exact fun h => Option.some_ne_none _ ((decodeIw_encIw (.funcSet dl n f)).symm.trans h)

/-! ## The pseudo-instructions (R83) -/

/-- CLEAR after an acknowledged CLRDISP is HOME (R83, D34). -/
theorem runClear_acked {s : State} {rest : List Draw} (hb : s.busy = false) (hstuck : s.stuck = false)
    (hd : s.draws = .ack :: rest) :
    runPseudo .clear s = exec .reqHome (completed .clearDisplay [⟨0x00, [0x01]⟩] none rest s.dev.clear s) := by
  have hclrdisp : exec .reqClrdisp s = .next (completed .clearDisplay [⟨0x00, [0x01]⟩] none rest s.dev.clear s) :=
    plannedRequestCompletes .clearDisplay _ none s rest rfl hb hd
  rw [runPseudo, runClear, hclrdisp]
  exact if_pos ⟨hstuck, rfl⟩

/-- CLEAR ends where CLRDISP does unless that ended with `OK` (R83, D34). -/
theorem runClear_notOk {s t : State} (hclrdisp : exec .reqClrdisp s = .next t)
    (hnot : t.stuck = true ∨ t.result ≠ some .ok) : runPseudo .clear s = .next t := by
  rw [runPseudo, runClear, hclrdisp]
  refine if_neg fun ⟨hstuck, hok⟩ => ?_
  obtain h | h := hnot
  · exact Bool.noConfusion (h.symm.trans hstuck)
  · exact h hok

/-- Settles O37: CLEAR is CLRDISP, then HOME by `runClear_acked`, or CLRDISP alone by `runClear_notOk`; how each of the
two requests ends is settled above for every plan. -/
theorem pseudoInstructionsExpand : Obligations.PseudoInstructionsExpand := by
  refine ⟨fun s rest hb hstuck hd => ?_, fun s rest answer cause out hb hstuck hanswer => ⟨fun hd => ?_, fun hd => ?_⟩,
    fun s rest hb hstuck => ⟨fun hd => ?_, fun hd => ?_⟩, fun s => ⟨rfl, rfl, rfl, rfl⟩⟩
  · refine ⟨_, _, _, exec_ofIw .clear s, exec_ofIw .home _, (runClear_acked hb hstuck hd).trans
      (plannedRequestCompletes .returnHome _ none _ rest rfl rfl rfl), rfl, rfl, ?_, rfl, ?_⟩
    · simp [completed, buffered]
    · simp [completed, buffered, ackTrace, tailTrace]
  · have hexec := failedAttemptEndsRequest .clearDisplay _ none 0 answer cause out s rest rfl hb Nat.one_pos hanswer hd
    exact runClear_notOk hexec (.inr (by simp [failedAt]))
  · exact (runClear_acked hb hstuck hd).trans
      (failedAttemptEndsRequest .returnHome _ none 0 answer cause out _ rest rfl rfl Nat.one_pos hanswer rfl)
  · obtain ⟨_, hexec, rfl, -⟩ := stalledTransportSticks .clearDisplay _ none 0 s rest rfl hb Nat.one_pos hd
    exact runClear_notOk hexec (.inl rfl)
  · obtain ⟨_, hexec, rfl, -⟩ := stalledTransportSticks .returnHome _ none 0
      (completed .clearDisplay [⟨0x00, [0x01]⟩] none (.stall :: rest) s.dev.clear s) rest rfl rfl Nat.one_pos rfl
    exact ⟨_, exec_ofIw .clear s, (runClear_acked hb hstuck hd).trans hexec⟩

/-! ## The assembler (R82) -/

/-- Settles O54: the tokens and the operands of each line are evaluated. -/
theorem assemblerExamples : Obligations.AssemblerExamples := by
  unfold Obligations.AssemblerExamples
  decide +kernel

end Sys2Proof.Machine
end

section
/-! SUPPORT. The requests that send instruction bytes alone: a plan of such frames is its symbolic instructions at the
device, one after the other, and each of INIT, CLRDISP, HOME, ENTRY, DISPON, DISPOFF, SETCG and SETDD is such a plan
(R84 to R93, R124). -/

namespace Sys2Proof.Machine

/-! ## Plans of instruction bytes -/

/-- The plan that sends these symbolic instructions, each in an IW frame of its own (R35, R81). -/
def iwPlan (xs : List Iw) : List Frame := xs.map fun x => iwFrame (encIw x)

/-- An encoded instruction byte acts at the device as the instruction it stands for (R48, R81). -/
theorem obsInstrByte_encIw (dev : Dev) (x : Iw) : obsInstrByte dev (encIw x) = obsInstr x dev := by
  rw [obsInstrByte, decodeIw_encIw]

/-- Acknowledged, such a plan leaves the device as its instructions do in order (R36, R48). -/
theorem deliver_iwPlan (xs : List Iw) (dev : Dev) :
    deliver (iwPlan xs) dev = xs.foldl (fun dev x => obsInstr x dev) dev := by
  induction xs generalizing dev with
  | nil => rfl
  | cons x xs ih =>
    rw [iwPlan, List.map_cons, deliver_cons, iwFrame, obsApply_iw, obsInstrByte_encIw]
    exact ih (obsInstr x dev)

/-- A request other than INIT that sends one instruction byte and fills no buffer: acknowledged, it ends with `OK`, and
the device takes the instruction (R19, R86 to R93). -/
theorem exec_one_instruction_acked {req : Request} (x : Iw) {s : State} {rest : List Draw}
    (hplan : planOf req = some (iwPlan [x], none)) (hbuffer : buffered req s = s) (hb : s.busy = false)
    (hd : s.draws = .ack :: rest) :
    exec (.ofRequest req) s = .next (completed req (iwPlan [x]) none rest (obsInstr x s.dev) s) := by
  have hinit : req ≠ .init := by rintro rfl; simp [planOf, iwPlan] at hplan
  rw [plannedRequestCompletes req _ none s rest hplan hb hd, if_neg hinit, deliver_iwPlan, hbuffer]
  rfl

/-! ## The requests -/

/-- The two flags of DISPON in numbers (R68, R89). -/
theorem encIw_dispCtl_on (c b : Bool) :
    encIw (.dispCtl true c b) = BitVec.ofNat 8 (0x0C + 2 * c.toNat + b.toNat) := by
  cases c <;> cases b <;> rfl

theorem planOf_setCgramAddress (a : BitVec 6) : planOf (.setCgramAddress a) = some (iwPlan [.setCg a], none) := by
  rw [planOf, ← encSetCg_eq]
  rfl

theorem planOf_setDdramAddress (a : BitVec 7) : planOf (.setDdramAddress a) = some (iwPlan [.setDd a], none) := by
  rw [planOf, ← encSetDd_eq]
  rfl

/-- Settles O25: the four instructions in order leave the tabulated device, its DDRAM as Clear fills it, and the success
of an INIT makes it known. -/
theorem initCompletes : Obligations.InitCompletes := by
  intro s rest hb hd
  have hexec := plannedRequestCompletes .init
    (iwPlan [.funcSet true true false, .dispCtl true false false, .clear, .entry true false]) (some .initTail) s rest
    rfl hb hd
  rw [if_pos rfl, deliver_iwPlan] at hexec
  refine ⟨Memory.filled 128 Config.clearFill, hexec, fun a ha => ?_⟩
  rw [Memory.read_filled, if_pos ha]

/-- Settles O26: each sends the one instruction it is named after. -/
theorem clrdispAndHomeComplete : Obligations.ClrdispAndHomeComplete :=
  fun s _ hb hd => ⟨⟨_, exec_ofIw .clear s, exec_one_instruction_acked (req := .clearDisplay) .clear rfl rfl hb hd⟩,
    exec_one_instruction_acked (req := .returnHome) .home rfl rfl hb hd⟩

/-- Settles O27: each sends EntryModeSet with its direction and its shift. -/
theorem entryCompletes : Obligations.EntryCompletes := by
  intro s rest hb hd
  have hentry : ∀ dir shift, exec (.reqEntry dir shift) s =
      .next (completed (.setEntryMode dir shift) (iwPlan [.entry (decide (dir = .left)) (decide (shift = .on))]) none rest
        { s.dev with id := some (decide (dir = .left)), s := some (decide (shift = .on)) } s) :=
    fun dir shift => exec_one_instruction_acked _ (planOf_setEntryMode dir shift) rfl hb hd
  exact ⟨hentry .right .off, hentry .right .on, hentry .left .off, hentry .left .on⟩

/-- Settles O28: each sends DisplayControl, DISPON with its two flags. -/
theorem displayRequestsComplete : Obligations.DisplayRequestsComplete := by
  refine fun s rest hb hd => ⟨fun c b => ?_,
    exec_one_instruction_acked (req := .setDisplayOff) (.dispCtl false false false) rfl rfl hb hd⟩
  rw [← encIw_dispCtl_on]
  exact exec_one_instruction_acked (.dispCtl true c b) (planOf_setDisplayOn c b) rfl hb hd

/-- Settles O29: each sends the address set of its own address. -/
theorem addressRequestsComplete : Obligations.AddressRequestsComplete := by
  refine fun s rest hb hd => ⟨fun a => ?_, fun a => ?_⟩
  · rw [← encSetCg_eq]
    exact exec_one_instruction_acked (.setCg a) (planOf_setCgramAddress a) rfl hb hd
  · rw [← encSetDd_eq]
    exact exec_one_instruction_acked (.setDd a) (planOf_setDdramAddress a) rfl hb hd

end Sys2Proof.Machine
end

section
/-! SUPPORT. The requests that write RAM data, WRDATA and DLINE, and the line table that DLINE looks its base up in: what
the table holds, DLINE's plan by its entry, and the errors of a DLINE without a plan (R94 to R99, R106, R108, R109). -/

namespace Sys2Proof.Machine

/-! ## The line table (R41, R97) -/

theorem lineBase_eq_none_iff : ∀ line, lineBase line = none ↔ line < 1 ∨ 4 < line
  | 0 | 1 | 2 | 3 | 4 => by decide
  | n + 5 => iff_of_true rfl (by omega)

/-- Settles O7: the last clause holds of each of the four entries. -/
theorem lineTableHoldsSetDdramBytes : Obligations.LineTableHoldsSetDdramBytes := by
  refine ⟨⟨rfl, rfl, rfl, rfl⟩, fun n => (lineBase_eq_none_iff n).2, fun n b hbase => ?_⟩
  match n, hbase with
  | 1, rfl | 2, rfl | 3, rfl | 4, rfl => rfl

/-! ## DLINE (R95 to R99) -/

/-- The tabulated plan of a DLINE, by its entry of the line table (R95, R97, R98). -/
theorem planOf_displayLine (text : List Byte) : ∀ line, planOf (.displayLine line text) =
    if text.length ≤ 32 then (lineBase line).map fun base => (linePlan base text, none) else none
  | 0 | 1 | 2 | 3 | 4 | _ + 5 => rfl

/-- Acknowledged, a DLINE's plan sets the base's DDRAM address, and the text follows as data bytes (R48, R55, R98). -/
theorem deliver_linePlan (a : BitVec 7) (text : List Byte) (dev : Dev) :
    deliver (linePlan (encSetDd a) text) dev = text.foldl (fun dev v => dev.memWrite v) (dev.setDd a) := by
  have haddr : obsInstrByte dev (encSetDd a) = dev.setDd a := obsInstrByte_encIw dev (.setDd a)
  rw [linePlan, iwFrame, deliver_cons, obsApply_iw, haddr]
  rfl

/-- A DLINE on line `line` with its two attempts acknowledged, `a` being the DDRAM address of its base (R98, R99). -/
theorem exec_dline_completed {s : State} {rest : List Draw} {text : List Byte} {line : Nat} {a : BitVec 7}
    (hbase : lineBase line = some (encSetDd a)) (hlen : text.length ≤ 32) (hb : s.busy = false)
    (hd : s.draws = .ack :: .ack :: rest) :
    exec (.reqDline line text) s = .next (completed (.displayLine line text) (linePlan (encSetDd a) text) none rest
      (text.foldl (fun dev v => dev.memWrite v) (s.dev.setDd a)) { s with lineBuf := text }) := by
  have hplan : planOf (.displayLine line text) = some (linePlan (encSetDd a) text, none) := by
    rw [planOf_displayLine, if_pos hlen, hbase, Option.map_some]
  have hexec := plannedRequestCompletes _ _ none s rest hplan hb hd
  rwa [if_neg nofun, deliver_linePlan] at hexec

/-- Settles O31: each base is the SetDDRAM byte of the address listed beside it. -/
theorem dlineCompletes : Obligations.DlineCompletes := by
  intro s rest text hb hd hlen line base addr hline
  simp only [List.mem_cons, List.not_mem_nil, or_false, Prod.mk.injEq] at hline
  obtain ⟨rfl, rfl, rfl⟩ | ⟨rfl, rfl, rfl⟩ | ⟨rfl, rfl, rfl⟩ | ⟨rfl, rfl, rfl⟩ := hline
  · exact exec_dline_completed (a := 0x00) rfl hlen hb hd
  · exact exec_dline_completed (a := 0x40) rfl hlen hb hd
  · exact exec_dline_completed (a := 0x14) rfl hlen hb hd
  · exact exec_dline_completed (a := 0x54) rfl hlen hb hd

/-- A bad line or a text that is too long leaves a DLINE without a plan, so an idle block refuses it (R95, R106). -/
theorem exec_dline_refused {s : State} {line : Nat} {text : List Byte} (hbad : lineBase line = none ∨ 32 < text.length)
    (hb : s.busy = false) : exec (.reqDline line text) s =
      .next (refusedWith (.displayLine line text) (refusalOf (.displayLine line text)) s) := by
  have hplan : planOf (.displayLine line text) = none := by
    rw [planOf_displayLine]
    obtain hnone | hlong := hbad
    · rw [hnone, Option.map_none, ite_self]
    · exact if_neg (Nat.not_le.2 hlong)
  exact exec_refused hplan hb

/-- Settles O38: in each of the three cases the error is the one `refusalOf` gives. -/
theorem dlineRefusedBeforeAnyAttempt : Obligations.DlineRefusedBeforeAnyAttempt := by
  intro s line text hb
  have hnone : line < 1 ∨ 4 < line → lineBase line = none := (lineBase_eq_none_iff line).2
  refine ⟨fun hline hlen => ?_, fun hlow hhigh hlong => ?_, fun hline hlong => ?_⟩
  · rw [exec_dline_refused (.inl (hnone hline)) hb, refusalOf, hnone hline, if_neg nofun, if_neg (Nat.not_lt.2 hlen)]
  · have hsome : (lineBase line).isSome := by
      rw [Option.isSome_iff_ne_none, ne_eq, lineBase_eq_none_iff]
      omega
    rw [exec_dline_refused (.inr hlong) hb, refusalOf, if_pos hsome]
  · rw [exec_dline_refused (.inr hlong) hb, refusalOf, hnone hline, if_neg nofun, if_pos hlong]
    rfl

/-! ## WRDATA (R94) -/

/-- Settles O30: the one frame of its plan is one data byte at the device. -/
theorem wrdataCompletes : Obligations.WrdataCompletes := by
  intro s rest value hb hd
  have hexec := plannedRequestCompletes (.writeRamData value) _ none s rest rfl hb hd
  rw [if_neg nofun, deliver_cons, deliver_nil, obsApply_dw] at hexec
  exact ⟨_, exec_dataByte _ s, hexec⟩

end Sys2Proof.Machine
end

section
/-! SUPPORT. The places of LDGLYPH's frames in its plan: slot `i`'s nine frames start at place `9 i` (R102). -/

namespace Sys2Proof.Machine

theorem length_flatMap_range {α : Type} {f : Nat → List α} {width n : Nat} (h : ∀ i, i < n → (f i).length = width) :
    ((List.range n).flatMap f).length = n * width := by
  rw [List.length_flatMap, List.map_congr_left fun i hi => h i (List.mem_range.1 hi), List.map_const',
    List.length_range, List.sum_replicate_nat]

/-- Blocks of one width in a row: place `j` of block `i` is place `width * i + j` of the whole. -/
theorem getElem?_flatMap_range {α : Type} {f : Nat → List α} {width n i j : Nat}
    (h : ∀ i, i < n → (f i).length = width) (hi : i < n) (hj : j < width) :
    ((List.range n).flatMap f)[width * i + j]? = (f i)[j]? := by
  induction n with
  | zero => cases hi
  | succ n ih =>
    have hbefore : ∀ i, i < n → (f i).length = width := fun i hi => h i (Nat.lt_succ_of_lt hi)
    have hlen := length_flatMap_range hbefore
    rw [List.range_succ, List.flatMap_append, List.flatMap_singleton]
    obtain hlt | rfl := Nat.lt_succ_iff_lt_or_eq.1 hi
    · have hplace : width * i + j < n * width := by
        calc width * i + j < width * (i + 1) := by rw [Nat.mul_succ]; omega
          _ ≤ n * width := by rw [Nat.mul_comm]; exact Nat.mul_le_mul_right width hlt
      rw [List.getElem?_append_left (hlen.symm ▸ hplace), ih hbefore hlt]
    · rw [List.getElem?_append_right (by rw [hlen, Nat.mul_comm]; omega), hlen, Nat.mul_comm, Nat.add_sub_cancel_left]

/-- Frame `j` of slot `i` is frame `9 i + j` of the plan (R102). -/
theorem getElem?_glyphPlan {table : List (List Nat)} (hok : glyphTableOk table) {i j : Nat} (hi : i < 8) (hj : j < 9) :
    (glyphPlan table)[9 * i + j]? = (slotPlan i (table.getD i []))[j]? :=
  getElem?_flatMap_range (fun k hk => by rw [slotPlan, List.length_cons, List.length_map, (hok.getD hk).1]) hi hj

/-- Settles O34: the end state is that of any planned request, and frames `0` and `r + 1` of a slot are its address and
its row `r`. -/
theorem ldglyphCompletes : Obligations.LdglyphCompletes := by
  intro s rest table hb hok hd
  have hlen := glyphPlan_length hok
  have hexec := plannedRequestCompletes (.loadGlyphs table) (glyphPlan table) none s rest (if_pos hok) hb (hlen.symm ▸ hd)
  rw [if_neg nofun] at hexec
  refine ⟨hexec, hlen, fun i hi => ⟨getElem?_glyphPlan hok hi (j := 0) (by omega), fun r row hr hrow => ?_⟩⟩
  obtain ⟨glyph, hglyph, hrow⟩ := Option.bind_eq_some_iff.1 hrow
  rw [Nat.add_assoc, Nat.add_comm 1 r, getElem?_glyphPlan hok hi (by omega), slotPlan, List.getElem?_cons_succ,
    List.getElem?_map, List.getD_eq_getElem?_getD, hglyph, Option.getD_some, hrow, Option.map_some]

end Sys2Proof.Machine
end

section
/-! SUPPORT. The results of requests: an idle block ends every request with exactly one result unless the transport
never answers (R105, R116), and an illegal request with its own error (R111). -/

namespace Sys2Proof.Machine

/-! ## From acceptance to the end of a request: the results -/

/-- A request is in progress in `u`, and no result has been delivered since `s` (R19). -/
def InProgress (s u : State) : Prop :=
  u.busy = true ∧ u.stuck = false ∧ u.results = s.results ∧ u.result = s.result

/-- A request taken after `s` has ended in `t` with exactly one result, or it never ends (R105, R116). -/
def EndsOnce (s t : State) : Prop :=
  (t.stuck = true ∧ t.busy = true ∧ t.results = s.results ∧ t.result = s.result) ∨
    (t.stuck = false ∧ t.busy = false ∧ ∃ r, t.results = s.results ++ [r] ∧ t.result = some r)

theorem InProgress.acked {s u v : State} {frame : Frame} (h : InProgress s u) (hsend : send frame u = .acked v) :
    InProgress s v := by
  obtain ⟨_, _, rfl⟩ := send_acked_inv hsend
  exact h

/-- A failed attempt, an oversized one too, delivers nothing by itself: the result comes with `raise` (R32, R107). -/
theorem InProgress.failed {s u v : State} {frame : Frame} {cause : Cause} (h : InProgress s u)
    (hsend : send frame u = .failed cause v) : InProgress s v := by
  obtain ⟨_, _, ⟨h', -⟩ | ⟨h', -⟩ | ⟨h', -⟩ | ⟨h', -⟩ | ⟨h', -⟩⟩ := send_cases frame u <;> cases h'.symm.trans hsend
  all_goals exact h

theorem InProgress.endsOnce_stalled {s u v : State} {frame : Frame} (h : InProgress s u)
    (hsend : send frame u = .stalled v) : EndsOnce s v := by
  obtain ⟨hbusy, -, hrecord⟩ := h
  obtain ⟨_, _, rfl⟩ := send_stalled_inv hsend
  exact .inl ⟨rfl, hbusy, hrecord⟩

theorem InProgress.endsOnce_raise {s u : State} (h : InProgress s u) (e : Result) : EndsOnce s (raise e u) := by
  obtain ⟨-, hstuck, hresults, -⟩ := h
  exact .inr ⟨hstuck, rfl, e, congrArg (· ++ [e]) hresults, rfl⟩

theorem InProgress.endsOnce_finish {s u : State} (h : InProgress s u) : EndsOnce s (finish u) := by
  obtain ⟨-, hstuck, hresults, -⟩ := h
  rw [finish_eq]
  exact .inr ⟨hstuck, rfl, .ok, congrArg (· ++ [.ok]) hresults, rfl⟩

/-- The loop of R19 delivers its one result where it ends, whatever the frames and the transport's answers. -/
theorem InProgress.endsOnce_runFrames {s u : State} (h : InProgress s u) (frames : List Frame) :
    EndsOnce s (runFrames frames u) :=
  runFrames_induct (P := fun _ u => InProgress s u) (Q := EndsOnce s) (fun _ h => h.endsOnce_finish)
    (fun _ _ _ _ h => h.acked) (fun _ _ _ _ _ h hsend => (h.failed hsend).endsOnce_raise _)
    (fun _ _ _ _ h => h.endsOnce_stalled) frames u h

/-- Acceptance delivers nothing. -/
theorem inProgress_accepted {s : State} (req : Request) (plan : List Frame) (tail : Option Duration)
    (hstuck : s.stuck = false) : InProgress s (accepted req plan tail s) :=
  ⟨rfl, (buffered_stuck req s).trans hstuck, buffered_results req s, buffered_result req s⟩

/-- Settles O45: a refusal is the one result; else the loop of R19 delivers it, or stalls. -/
theorem oneResultPerRequest : Obligations.OneResultPerRequest := by
  intro req s hb hstuck
  obtain he | ⟨plan, tail, -, he⟩ := exec_request_idle_cases req
  · exact ⟨_, he s hb, .inr ⟨hstuck, rfl, refusalOf req, rfl, rfl⟩⟩
  · exact ⟨_, he s hb, (inProgress_accepted req plan tail hstuck).endsOnce_runFrames plan⟩

/-! ## An illegal request -/

/-- Settles O40: by `exec_refused`, an illegal request having no plan. -/
theorem illegalRequestRefused : Obligations.IllegalRequestRefused :=
  fun _ w hb => exec_refused (req := .illegal w) rfl hb

end Sys2Proof.Machine
end
